-- ==== Sys2Proof/Word.lean ====
section
/-! DEFINITION. The word types of TXE (00_scope.md R8, R11): 32-bit DMEM, register and command words, the 16-bit address
registers, and the byte lanes of a word (20_memory.md R62). A word's value is read with `BitVec.toInt` (the spec's sext_32). -/

namespace Sys2Proof

/-- A 32-bit pattern: a DMEM word, a command word, a register as the host sees it (R8, W = 32). -/
abbrev Word := BitVec 32

/-- The 16-bit contents of SRC, DST and STRIDE (R8, R42 to R44). -/
abbrev Half := BitVec 16

/-- One byte lane of a word (R62). -/
abbrev Byte := BitVec 8

end Sys2Proof
end

