-- ==== Sys2Proof/Syntax.lean ====
section
/-! DEFINITION. The commands of TXE as syntax: one constructor for each row of the opcode map (30_encoding.md R98). -/

namespace Sys2Proof

/-- The rotation family selected by the FAM bit (R94). -/
inductive Family where
  /-- FAM = 0, the precise family P (R126). -/
  | precise
  /-- FAM = 1, the flattened family F (R133). -/
  | flattened
  deriving DecidableEq, Repr

/-- The permutation table selected by the TBL bit of format P (R95). -/
inductive Table where
  /-- TBL = 0, permC2_N. -/
  | dct
  /-- TBL = 1, permS4_N. -/
  | dst
  deriving DecidableEq, Repr

/-- A decoded command. `sz` is the size code SZ (R96: N = 4 << SZ), `raw` the RAW bit (R94). -/
inductive Instr where
  /-- NOP (R232). -/
  | nop
  /-- SETSRC imm (R233). -/
  | setsrc (imm : Half)
  /-- SETDST imm (R234). -/
  | setdst (imm : Half)
  /-- SETSTR imm (R235). -/
  | setstr (imm : Half)
  /-- FDCT.N[.F][.R] (R237). -/
  | fdct (sz : BitVec 3) (fam : Family) (raw : Bool)
  /-- IDCT.N[.F][.R] (R238). -/
  | idct (sz : BitVec 3) (fam : Family) (raw : Bool)
  /-- FDST.N[.F][.R] (R239). -/
  | fdst (sz : BitVec 3) (fam : Family) (raw : Bool)
  /-- IDST.N[.F][.R] (R240). -/
  | idst (sz : BitVec 3) (fam : Family) (raw : Bool)
  /-- FIDT.N (R241). -/
  | fidt (sz : BitVec 3)
  /-- IIDT.N (R242). -/
  | iidt (sz : BitVec 3)
  /-- PERMF.DCT.N or PERMF.DST.N (R243). -/
  | permf (sz : BitVec 3) (tbl : Table)
  /-- PERMI.DCT.N or PERMI.DST.N (R244). -/
  | permi (sz : BitVec 3) (tbl : Table)
  deriving DecidableEq, Repr

end Sys2Proof
end

