-- ==== Sys2Proof/WellFormed.lean ====
section
/-! DEFINITION. Which instructions the opcode map admits: a size code is 0 to 4 (30_encoding.md R96, R98). Every other field
of `Instr` is legal at every value. -/

namespace Sys2Proof

/-- SZ = 0 to 4 selects a size; SZ = 5, 6, 7 are reserved (R96). -/
def sizeOk (sz : BitVec 3) : Bool := decide (sz.toNat ≤ 4)

/-- The check of an instruction (R98: "its SZ, if it has one, is 0 to 4"). -/
def Instr.check : Instr → Bool
  | .nop => true
  | .setsrc _ => true
  | .setdst _ => true
  | .setstr _ => true
  | .fdct sz _ _ => sizeOk sz
  | .idct sz _ _ => sizeOk sz
  | .fdst sz _ _ => sizeOk sz
  | .idst sz _ _ => sizeOk sz
  | .fidt sz => sizeOk sz
  | .iidt sz => sizeOk sz
  | .permf sz _ => sizeOk sz
  | .permi sz _ => sizeOk sz

/-- A well-formed instruction is one the opcode map has a word for. -/
abbrev Instr.WellFormed (i : Instr) : Prop := i.check = true

end Sys2Proof
end

