-- ==== Sys2Proof/Decode.lean ====
section
/-! DEFINITION. The decoder of 30_encoding.md R99, total on every 32-bit word and refusing by the reason R100 lists; the
encoder from the formats of R92 to R95; the opcode map of R98 as a table; and the host's reader of one table word. -/

namespace Sys2Proof

/-- Why a word is ILLEGAL (the list of R100). The block itself reports only the one code ILLEGAL (R282). -/
inductive IllegalReason where
  /-- OP = 0x6 to 0xF. -/
  | reservedOp
  /-- A bit that must be 0 is 1. -/
  | mustBeZero
  /-- KIND = 11. -/
  | reservedKind
  /-- SZ = 5, 6 or 7. -/
  | reservedSize
  /-- FIDT or IIDT with FAM or RAW set. -/
  | identityVariant
  deriving DecidableEq, Repr

/-- What a word decodes to (R99). -/
inductive Decoded where
  /-- The word is this command. -/
  | command (i : Instr)
  /-- The word is ILLEGAL. -/
  | illegal (why : IllegalReason)
  deriving DecidableEq, Repr

/-- FAM: 0 precise, 1 flattened (R94). -/
def familyOfBit (b : Bool) : Family := if b then .flattened else .precise

/-- TBL: 0 the DCT-II table, 1 the DST-IV table (R95). -/
def tableOfBit (b : Bool) : Table := if b then .dst else .dct

/-- Format T (R94), after OP: the checks in R99's order. -/
def decodeT (c : Word) : Decoded :=
  let kind := c.extractLsb' 1 2
  let sz := c.extractLsb' 3 3
  let dir := c.getLsbD 0
  let fam := familyOfBit (c.getLsbD 6)
  let raw := c.getLsbD 7
  if c.extractLsb' 8 20 ≠ 0#20 then .illegal .mustBeZero
  else if kind = 3#2 then .illegal .reservedKind
  else if 4 < sz.toNat then .illegal .reservedSize
  else if kind = 2#2 ∧ c.extractLsb' 6 2 ≠ 0#2 then .illegal .identityVariant
  else if kind = 0#2 then
    if dir then .command (.idct sz fam raw) else .command (.fdct sz fam raw)
  else if kind = 1#2 then
    if dir then .command (.idst sz fam raw) else .command (.fdst sz fam raw)
  else
    if dir then .command (.iidt sz) else .command (.fidt sz)

/-- Format P (R95), after OP. -/
def decodeP (c : Word) : Decoded :=
  let sz := c.extractLsb' 3 3
  let tbl := tableOfBit (c.getLsbD 1)
  if c.extractLsb' 6 22 ≠ 0#22 then .illegal .mustBeZero
  else if c.getLsbD 2 then .illegal .mustBeZero
  else if 4 < sz.toNat then .illegal .reservedSize
  else if c.getLsbD 0 then .command (.permi sz tbl)
  else .command (.permf sz tbl)

/-- The decoder (R99). -/
def decode (c : Word) : Decoded :=
  let op := c.extractLsb' 28 4
  let imm := c.extractLsb' 0 16
  if op = 0x0#4 then
    if c.extractLsb' 0 28 = 0#28 then .command .nop else .illegal .mustBeZero
  else if op = 0x1#4 ∨ op = 0x2#4 ∨ op = 0x3#4 then
    if c.extractLsb' 16 12 ≠ 0#12 then .illegal .mustBeZero
    else if op = 0x1#4 then .command (.setsrc imm)
    else if op = 0x2#4 then .command (.setdst imm)
    else .command (.setstr imm)
  else if op = 0x4#4 then decodeT c
  else if op = 0x5#4 then decodeP c
  else .illegal .reservedOp

/-- The FAM bit of a family (R94). -/
def Family.bit : Family → BitVec 1
  | .precise => 0#1
  | .flattened => 1#1

/-- The TBL bit of a table (R95). -/
def Table.bit : Table → BitVec 1
  | .dct => 0#1
  | .dst => 1#1

/-- Format S (R93): OP, twelve zeros, IMM16. -/
def encodeS (op : BitVec 4) (imm : Half) : Word := op ++ 0#12 ++ imm

/-- Format T (R94): OP = 0x4, twenty zeros, RAW, FAM, SZ, KIND, DIR. -/
def encodeT (raw : Bool) (fam : BitVec 1) (sz : BitVec 3) (kind : BitVec 2) (dir : BitVec 1) : Word :=
  0x4#4 ++ 0#20 ++ BitVec.ofBool raw ++ fam ++ sz ++ kind ++ dir

/-- Format P (R95): OP = 0x5, twenty-two zeros, SZ, a zero, TBL, DIR. -/
def encodeP (sz : BitVec 3) (tbl : Table) (dir : BitVec 1) : Word :=
  0x5#4 ++ 0#22 ++ sz ++ 0#1 ++ tbl.bit ++ dir

/-- The command word of an instruction (R92 to R95). -/
def encode : Instr → Word
  | .nop => 0#32
  | .setsrc imm => encodeS 0x1#4 imm
  | .setdst imm => encodeS 0x2#4 imm
  | .setstr imm => encodeS 0x3#4 imm
  | .fdct sz fam raw => encodeT raw fam.bit sz 0#2 0#1
  | .idct sz fam raw => encodeT raw fam.bit sz 0#2 1#1
  | .fdst sz fam raw => encodeT raw fam.bit sz 1#2 0#1
  | .idst sz fam raw => encodeT raw fam.bit sz 1#2 1#1
  | .fidt sz => encodeT false 0#1 sz 2#2 0#1
  | .iidt sz => encodeT false 0#1 sz 2#2 1#1
  | .permf sz tbl => encodeP sz tbl 0#1
  | .permi sz tbl => encodeP sz tbl 1#1

/-- One row of the opcode map (R98): a word c is the row's command when c AND mask = match, and, where the row has a size
code in bits [5:3], that code is 0 to 4. -/
structure OpcodeRow where
  mnemonic : String
  pattern : Word
  mask : Word
  sized : Bool
  deriving DecidableEq, Repr

/-- The opcode map, row for row (R98). -/
def opcodeMap : List OpcodeRow :=
  [ ⟨"NOP", 0x00000000#32, 0xFFFFFFFF#32, false⟩,
    ⟨"SETSRC", 0x10000000#32, 0xFFFF0000#32, false⟩,
    ⟨"SETDST", 0x20000000#32, 0xFFFF0000#32, false⟩,
    ⟨"SETSTR", 0x30000000#32, 0xFFFF0000#32, false⟩,
    ⟨"FDCT", 0x40000000#32, 0xFFFFFF07#32, true⟩,
    ⟨"IDCT", 0x40000001#32, 0xFFFFFF07#32, true⟩,
    ⟨"FDST", 0x40000002#32, 0xFFFFFF07#32, true⟩,
    ⟨"IDST", 0x40000003#32, 0xFFFFFF07#32, true⟩,
    ⟨"FIDT", 0x40000004#32, 0xFFFFFFC7#32, true⟩,
    ⟨"IIDT", 0x40000005#32, 0xFFFFFFC7#32, true⟩,
    ⟨"PERMF", 0x50000000#32, 0xFFFFFFC5#32, true⟩,
    ⟨"PERMI", 0x50000001#32, 0xFFFFFFC5#32, true⟩ ]

/-- The row selects the word (R98). -/
def OpcodeRow.selects (r : OpcodeRow) (c : Word) : Bool :=
  (c &&& r.mask == r.pattern) && (!r.sized || sizeOk (c.extractLsb' 3 3))

/-- The mnemonic of an instruction's row (R98). -/
def Instr.mnemonic : Instr → String
  | .nop => "NOP"
  | .setsrc _ => "SETSRC"
  | .setdst _ => "SETDST"
  | .setstr _ => "SETSTR"
  | .fdct _ _ _ => "FDCT"
  | .idct _ _ _ => "IDCT"
  | .fdst _ _ _ => "FDST"
  | .idst _ _ _ => "IDST"
  | .fidt _ => "FIDT"
  | .iidt _ => "IIDT"
  | .permf _ _ => "PERMF"
  | .permi _ _ => "PERMI"

/-- The 32-bit command word whose low `nbits` bits are those of `w` and whose other bits are 0. A command is one 32-bit word
written in one access (R90), so the layout in memory order is the word itself (R62). -/
def tableWord (nbits w : Nat) : Word := BitVec.ofNat 32 (w % 2 ^ nbits)

/-- The instruction the decoder reads from a table word, for the host's tick list. -/
def decodeTableWord (nbits w : Nat) : Option Instr :=
  match decode (tableWord nbits w) with
  | .command i => some i
  | .illegal _ => none

end Sys2Proof
end

