-- ==== Sys2Proof/Machine/Arith.lean ====
section
/-! DEFINITION. The arithmetic of 00_scope.md R11, R12 and 40_primitives.md R124: exact integers, one store that wraps and
records whether it wrapped, multiply-round-shift, and stored negation. -/

namespace Sys2Proof.Machine

/-- A stored word and whether its store wrapped (R12). -/
structure Stored where
  val : Word
  ovf : Bool
  deriving DecidableEq, Repr

/-- `a <-st e`: the word wrap(e), and the indicator of wrap(e) ≠ e (R11, R12). -/
def store (e : Int) : Stored :=
  let w := BitVec.ofInt 32 e
  ⟨w, decide (w.toInt ≠ e)⟩

/-- mulr(v, m) = (v·m + 2^23) >> 24, exact, with a floor shift (R124). -/
def mulr (v : Word) (m : Nat) : Int := (v.toInt * (m : Int) + 0x800000) >>> (24 : Nat)

/-- Negation, the composers' other operation: `x <-st −x` (R120). -/
def negate (x : Word) : Stored := store (-x.toInt)

/-- Negate where `b` holds, else keep the word, which is then no store (R153 step 3, R154 step 1). -/
def negateIf (b : Bool) (x : Word) : Stored := if b then negate x else ⟨x, false⟩

/-- Element i of a transform vector (R14). Every use is within the vector's length. -/
def elt (x : List Word) (i : Nat) : Word := x.getD i 0#32

/-- Element i of a table of numbers. -/
def nth (t : List Nat) (i : Nat) : Nat := t.getD i 0

end Sys2Proof.Machine
end

