-- ==== Sys2Proof/Machine/Permutation.lean ====
section
/-! DEFINITION. The permutation tables and their application (42_permutation.md R191 to R196). A table of size N = 2^n is
named by n. -/

namespace Sys2Proof.Machine

mutual

/-- permC2_N for N = 2^n: slot to frequency (R191). -/
def permC2 : Nat → List Nat
  | 0 => [0]
  | n + 1 => (permC2 n).map (fun f => 2 * f) ++ (permS4 n).map (fun f => 2 * f + 1)

/-- permS4_N for N = 2^n: slot to frequency (R191). -/
def permS4 : Nat → List Nat
  | 0 => [0]
  | n + 1 =>
    (permC2 n).map (fun j => if j = 0 then 0 else 2 * j - 1) ++
      (permC2 n).map (fun g => if g = 0 then 2 ^ (n + 1) - 1 else 2 * (2 ^ n - g))

end

/-- The table TBL selects (R95). -/
def permTable (tbl : Table) (n : Nat) : List Nat :=
  match tbl with
  | .dct => permC2 n
  | .dst => permS4 n

/-- The inverse column of a table: the slot s with t[s] = f (R194). -/
def slotOf (t : List Nat) (f : Nat) : Nat := t.idxOf f

/-- σ_N, the slot of frequency f in permC2_N (R154, R193). -/
def sigma (n f : Nat) : Nat := slotOf (permC2 n) f

/-- PermFwd: y[P[s]] <- v[s] for every slot s, so y[f] is the word of the one slot that holds frequency f (R195). -/
def permFwd (t : List Nat) (v : List Word) : List Word :=
  (List.range t.length).map (fun f => elt v (slotOf t f))

/-- PermInv: v[s] <- y[P[s]] (R196). -/
def permInv (t : List Nat) (y : List Word) : List Word := t.map (fun f => elt y f)

end Sys2Proof.Machine
end

