-- ==== Sys2Proof/Machine/Rom.lean ====
section
/-! DEFINITION. The rotation ROM, the normative table of 40_primitives.md R128: entry k = 1..64 holds (T_k, S_k). -/

namespace Sys2Proof.Machine

/-- Entries 1 to 16 of the ROM (R128). -/
def rom0 : List (Nat × Nat) :=
  [ (102945, 205882), (205898, 411733), (308866, 617523), (411858, 823219),
    (514880, 1028791), (617941, 1234209), (721049, 1439440), (824212, 1644455),
    (927436, 1849222), (1030731, 2053710), (1134103, 2257890), (1237562, 2461729),
    (1341114, 2665197), (1444767, 2868265), (1548531, 3070900), (1652412, 3273072) ]

/-- Entries 17 to 32 of the ROM (R128). -/
def rom1 : List (Nat × Nat) :=
  [ (1756418, 3474752), (1860558, 3675909), (1964840, 3876512), (2069272, 4076531),
    (2173862, 4275936), (2278619, 4474698), (2383550, 4672785), (2488665, 4870169),
    (2593971, 5066819), (2699477, 5262706), (2805191, 5457801), (2911123, 5652074),
    (3017281, 5845495), (3123673, 6038037), (3230308, 6229669), (3337196, 6420363) ]

/-- Entries 33 to 48 of the ROM (R128). -/
def rom2 : List (Nat × Nat) :=
  [ (3444345, 6610090), (3551764, 6798821), (3659463, 6986529), (3767450, 7173184),
    (3875735, 7358759), (3984328, 7543226), (4093238, 7726557), (4202474, 7908725),
    (4312046, 8089701), (4421965, 8269459), (4532240, 8447972), (4642881, 8625213),
    (4753898, 8801154), (4865302, 8975771), (4977104, 9149035), (5089313, 9320922) ]

/-- Entries 49 to 64 of the ROM (R128). -/
def rom3 : List (Nat × Nat) :=
  [ (5201940, 9491405), (5314997, 9660458), (5428495, 9828057), (5542444, 9994176),
    (5656855, 10158790), (5771741, 10321873), (5887114, 10483403), (6002984, 10643353),
    (6119364, 10801701), (6236266, 10958422), (6353703, 11113493), (6471686, 11266890),
    (6590230, 11418590), (6709346, 11568571), (6829049, 11716809), (6949350, 11863283) ]

/-- The ROM, entry k at index k - 1 (R128). -/
def rom : List (Nat × Nat) := rom0 ++ rom1 ++ rom2 ++ rom3

/-- T_k, close to 2^24·tan(θ_k/2), for k = 1..64 (R128). -/
def romT (k : Nat) : Nat := (rom.getD (k - 1) (0, 0)).1

/-- S_k, close to 2^24·sin(θ_k), for k = 1..64 (R128). -/
def romS (k : Nat) : Nat := (rom.getD (k - 1) (0, 0)).2

end Sys2Proof.Machine
end

