-- ==== Sys2Proof/Machine/Rotation.lean ====
section
/-! DEFINITION. The rotation primitives REFL and IREFL of both families (40_primitives.md R126, R127, R133, R135). -/

namespace Sys2Proof.Machine

/-- The two words of a rotation, and whether any of its stores wrapped. -/
structure Rotated where
  p : Word
  q : Word
  ovf : Bool
  deriving DecidableEq, Repr

/-- REFL_k^P: three shears and a sign change, five stores (R126). -/
def reflP (k : Nat) (a b : Word) : Rotated :=
  let a1 := store (a.toInt + mulr b (romT k))
  let b1 := store (b.toInt - mulr a1.val (romS k))
  let a2 := store (a1.val.toInt + mulr b1.val (romT k))
  let p := store a2.val.toInt
  let q := negate b1.val
  ⟨p.val, q.val, a1.ovf || b1.ovf || a2.ovf || p.ovf || q.ovf⟩

/-- IREFL_k^P: the shears of REFL_k^P undone in reverse order (R127). The result's p and q are the rule's a and b. -/
def ireflP (k : Nat) (p q : Word) : Rotated :=
  let b1 := negate q
  let a1 := store (p.toInt - mulr b1.val (romT k))
  let b := store (b1.val.toInt + mulr a1.val (romS k))
  let a := store (a1.val.toInt - mulr b.val (romT k))
  ⟨a.val, b.val, b1.ovf || a1.ovf || b.ovf || a.ovf⟩

/-- A_k = (2^48 − T_k·S_k)·2^24 (R133). -/
def flatA (k : Nat) : Int := (0x1000000000000 - (romT k : Int) * (romS k : Int)) * 0x1000000

/-- B_k = T_k·(2^49 − T_k·S_k) (R133). -/
def flatB (k : Nat) : Int := (romT k : Int) * (0x2000000000000 - (romT k : Int) * (romS k : Int))

/-- C_k = S_k·2^48 (R133). -/
def flatC (k : Nat) : Int := (romS k : Int) * 0x1000000000000

/-- REFL_k^F: the exact 2×2 matrix, each output rounded once, with 2^71 added before a floor shift by 72 (R133). -/
def reflF (k : Nat) (a b : Word) : Rotated :=
  let p := store ((flatA k * a.toInt + flatB k * b.toInt + 0x800000000000000000) >>> (72 : Nat))
  let q := store ((flatC k * a.toInt - flatA k * b.toInt + 0x800000000000000000) >>> (72 : Nat))
  ⟨p.val, q.val, p.ovf || q.ovf⟩

/-- IREFL_k^F is REFL_k^F itself (R135). -/
def ireflF (k : Nat) (p q : Word) : Rotated := reflF k p q

/-- REFL_k^fam (R120). -/
def reflect (fam : Family) (k : Nat) (a b : Word) : Rotated :=
  match fam with
  | .precise => reflP k a b
  | .flattened => reflF k a b

/-- IREFL_k^fam (R127, R135). -/
def ireflect (fam : Family) (k : Nat) (p q : Word) : Rotated :=
  match fam with
  | .precise => ireflP k p q
  | .flattened => ireflF k p q

end Sys2Proof.Machine
end

