-- ==== Sys2Proof/Machine/Composer.lean ====
section
/-! DEFINITION. The recursive composers C2, S4 and their inverses (41_composers.md R152 to R157), for size N = 2^n. Every
intermediate word is computed once and used as produced, and ovf is the OR over all stores (R158). -/

namespace Sys2Proof.Machine

/-- A composer's output vector and whether any of its stores wrapped (R151). -/
structure Composed where
  vec : List Word
  ovf : Bool
  deriving DecidableEq, Repr

/-- The first outputs of a list of rotations. -/
def ps (l : List Rotated) : List Word := l.map (fun r => r.p)

/-- The second outputs of a list of rotations. -/
def qs (l : List Rotated) : List Word := l.map (fun r => r.q)

/-- Whether a rotation of the list wrapped. -/
def anyRot (l : List Rotated) : Bool := l.any (fun r => r.ovf)

/-- Rotation j of a list. Every use is within the list's length. -/
def rotAt (l : List Rotated) (j : Nat) : Rotated := l.getD j ⟨0#32, 0#32, false⟩

/-- The words of a list of stores. -/
def vals (l : List Stored) : List Word := l.map (fun r => r.val)

/-- Whether a store of the list wrapped. -/
def anySt (l : List Stored) : Bool := l.any (fun r => r.ovf)

/-- kidx(M, n) = (2n + 1)·64 / M for M = 2^m (R155). -/
def kidx (m n : Nat) : Nat := (2 * n + 1) * 64 / 2 ^ m

/-- Step (1) of C2_N, N = 2h: the butterflies of x[i] and x[N−1−i] (R153). -/
def c2Butterflies (fam : Family) (h : Nat) (x : List Word) : List Rotated :=
  (List.range h).map (fun i => reflect fam 64 (elt x i) (elt x (2 * h - 1 - i)))

/-- Step (3) of C2_N, and its undoing: negate slot i of the odd half where permS4_h[i] is odd, h = 2^n (R153, R156). -/
def signAdjust (n : Nat) (f : List Word) : List Stored :=
  (List.range (2 ^ n)).map (fun i => negateIf (nth (permS4 n) i % 2 == 1) (elt f i))

/-- Step (1) of S4_M, M = 2^(n+1): the pre-rotations of x[M−1−i] and x[i] (R154). -/
def s4PreRotations (fam : Family) (n : Nat) (x : List Word) : List Rotated :=
  (List.range (2 ^ n)).map (fun i => reflect fam (kidx (n + 1) i) (elt x (2 ^ (n + 1) - 1 - i)) (elt x i))

/-- The sign change of step (1) of S4_M, and its undoing: negate at odd index (R154, R157). -/
def alternate (n : Nat) (v : List Word) : List Stored :=
  (List.range (2 ^ n)).map (fun i => negateIf (i % 2 == 1) (elt v i))

/-- Step (3) of S4_M, h = 2^n: entry j − 1 is the post butterfly of U[σ(j)] and V[σ(h−j)], for j = 1 .. h−1 (R154). -/
def s4PostButterflies (fam : Family) (n : Nat) (u v : List Word) : List Rotated :=
  (List.range (2 ^ n - 1)).map (fun t =>
    reflect fam 64 (elt u (sigma n (t + 1))) (elt v (sigma n (2 ^ n - (t + 1)))))

/-- The first half of S4's output: slot 0 is U[0], and slot a = σ(j) is −p of butterfly j, where j = permC2_h[a] (R154). -/
def s4FirstHalf (n : Nat) (u : List Word) (post : List Rotated) : List Stored :=
  (List.range (2 ^ n)).map (fun a =>
    if a = 0 then ⟨elt u 0, false⟩ else negate (rotAt post (nth (permC2 n) a - 1)).p)

/-- The second half of S4's output: slot h is −V[0], and slot h + b with b = σ(h−j) is q of butterfly j, where
j = h − permC2_h[b] (R154). -/
def s4SecondHalf (n : Nat) (v : List Word) (post : List Rotated) : List Stored :=
  (List.range (2 ^ n)).map (fun b =>
    if b = 0 then negate (elt v 0) else ⟨(rotAt post (2 ^ n - nth (permC2 n) b - 1)).q, false⟩)

mutual

/-- C2_N, the forward DCT-II composer for N = 2^n, output in internal slot order (R152, R153). -/
def c2 (fam : Family) : Nat → List Word → Composed
  | 0, x => ⟨[elt x 0], false⟩
  | n + 1, x =>
    let bf := c2Butterflies fam (2 ^ n) x
    let e := c2 fam n (ps bf)
    let f := s4 fam n (qs bf).reverse
    let o := signAdjust n f.vec
    ⟨e.vec ++ vals o, anyRot bf || e.ovf || f.ovf || anySt o⟩

/-- S4_M, the forward DST-IV composer for M = 2^n, output in internal slot order (R152, R154). -/
def s4 (fam : Family) : Nat → List Word → Composed
  | 0, x => ⟨[elt x 0], false⟩
  | n + 1, x =>
    let pre := s4PreRotations fam n x
    let w := alternate n (qs pre)
    let u := c2 fam n (ps pre)
    let v := c2 fam n (vals w)
    let post := s4PostButterflies fam n u.vec v.vec
    let lo := s4FirstHalf n u.vec post
    let hi := s4SecondHalf n v.vec post
    ⟨vals lo ++ vals hi, anyRot pre || anySt w || u.ovf || v.ovf || anyRot post || anySt lo || anySt hi⟩

end

/-- Undoing step (1) of C2_N: entry i gives x[i] and x[N−1−i] (R156). -/
def ic2Butterflies (fam : Family) (h : Nat) (s d : List Word) : List Rotated :=
  (List.range h).map (fun i => ireflect fam 64 (elt s i) (elt d i))

/-- Undoing the sign of step (3) of S4_M, h = 2^n: entry j − 1 is −o[σ(j)], for j = 1 .. h−1 (R157). -/
def is4NegFirst (n : Nat) (o : List Word) : List Stored :=
  (List.range (2 ^ n - 1)).map (fun t => negate (elt o (sigma n (t + 1))))

/-- Undoing step (3) of S4_M: entry j − 1 is IREFL_64 of −o[σ(j)], the entry of `p`, and o[h + σ(h−j)], for j = 1 .. h−1
(R157). -/
def is4PostButterflies (fam : Family) (n : Nat) (p o : List Word) : List Rotated :=
  (List.range (2 ^ n - 1)).map (fun t =>
    ireflect fam 64 (elt p t) (elt o (2 ^ n + sigma n (2 ^ n - (t + 1)))))

/-- U of the inverse: U[0] = o[0], and U[a] with a = σ(j) is the first output of inverse butterfly j (R157). -/
def is4FirstHalf (n : Nat) (o : List Word) (post : List Rotated) : List Word :=
  (List.range (2 ^ n)).map (fun a => if a = 0 then elt o 0 else (rotAt post (nth (permC2 n) a - 1)).p)

/-- V of the inverse: V[0] = −o[h], and V[b] with b = σ(h−j) is the second output of inverse butterfly j (R157). -/
def is4SecondHalf (n : Nat) (o : List Word) (post : List Rotated) : List Stored :=
  (List.range (2 ^ n)).map (fun b =>
    if b = 0 then negate (elt o (2 ^ n)) else ⟨(rotAt post (2 ^ n - nth (permC2 n) b - 1)).q, false⟩)

/-- Undoing step (1) of S4_M: entry i gives x[M−1−i] and x[i] (R157). -/
def is4PreRotations (fam : Family) (n : Nat) (u v : List Word) : List Rotated :=
  (List.range (2 ^ n)).map (fun i => ireflect fam (kidx (n + 1) i) (elt u i) (elt v i))

mutual

/-- iC2_N, the inverse DCT-II composer for N = 2^n, input in internal slot order (R152, R156). -/
def ic2 (fam : Family) : Nat → List Word → Composed
  | 0, y => ⟨[elt y 0], false⟩
  | n + 1, y =>
    let f := signAdjust n (y.drop (2 ^ n))
    let s := ic2 fam n (y.take (2 ^ n))
    let jd := is4 fam n (vals f)
    let bf := ic2Butterflies fam (2 ^ n) s.vec jd.vec.reverse
    ⟨ps bf ++ (qs bf).reverse, anySt f || s.ovf || jd.ovf || anyRot bf⟩

/-- iS4_M, the inverse DST-IV composer for M = 2^n, input in internal slot order (R152, R157). -/
def is4 (fam : Family) : Nat → List Word → Composed
  | 0, o => ⟨[elt o 0], false⟩
  | n + 1, o =>
    let p := is4NegFirst n o
    let post := is4PostButterflies fam n (vals p) o
    let v := is4SecondHalf n o post
    let u := ic2 fam n (is4FirstHalf n o post)
    let w := ic2 fam n (vals v)
    let a := alternate n w.vec
    let pre := is4PreRotations fam n u.vec (vals a)
    ⟨qs pre ++ (ps pre).reverse,
      anySt p || anyRot post || anySt v || u.ovf || w.ovf || anySt a || anyRot pre⟩

end

end Sys2Proof.Machine
end

