-- ==== Sys2Proof/Config.lean ====
section
/-! DEFINITION. What an implementation fixes and what the spec leaves free: the parameter NW (00_scope.md R8, 92 D17) and the
unconstrained draw that a DMEM byte reads as before it is written (20_memory.md R74, 93 I1). LATENCY, the other open
parameter, is the schedule held in State (R326). -/

namespace Sys2Proof

/-- The implementation's parameters. NW is a power of two from 64 to 16384, so it is named by its logarithm above 6 (R8). -/
structure Params where
  /-- log2(NW) - 6, from 0 (NW = 64) to 8 (NW = 16384). -/
  nwStep : Fin 9
  deriving DecidableEq, Repr

/-- log2(NW), the CFG field LOG2NW (R37). -/
def Params.log2nw (p : Params) : Nat := 6 + p.nwStep.val

/-- NW, the number of DMEM words (R8). -/
def Params.nw (p : Params) : Nat := 2 ^ p.log2nw

/-- The reference value NW = 4096 (R8). -/
def Params.reference : Params := ⟨6⟩

/-- FREE VALUE (log entry 2). What byte `addr` of DMEM reads as while nothing has written it since reset number `epoch`:
one unconstrained draw for each byte and each reset, fixed until the byte is written (R74, R321, 93 I1). It has no body. -/
opaque Config.unwritten (epoch addr : Nat) : Byte

end Sys2Proof
end

