-- ==== Sys2Proof/Machine/State.lean ====
section
/-! DEFINITION. The state of TXE as plain data (10_state.md), the reasons a step can stop, and the state after reset (R49). -/

namespace Sys2Proof.Machine

/-- The error codes of STATUS.ECODE; codes 6 to 15 are never produced, so the type has the six values (60_exceptions.md
R281, 93 I11). -/
inductive ErrCode where
  /-- 0: no error since ERR was last cleared. -/
  | none
  /-- 1: the command word decodes as ILLEGAL (R282). -/
  | illegal
  /-- 2: a gather or scatter address is NW or more (R283). -/
  | range
  /-- 3: CMD written while BUSY = 1 (R284). -/
  | overrun
  /-- 4: a host access that is not an aligned 32-bit one (R285). -/
  | bus
  /-- 5: a host access refused because BUSY = 1 (R287). -/
  | hostbusy
  deriving DecidableEq, Repr

/-- The width of a host access (R63): only `bits32` is accepted. -/
inductive Width where
  | bits8
  | bits16
  | bits32
  | bits64
  /-- A burst that is not split into 32-bit beats. -/
  | burst
  deriving DecidableEq, Repr

/-- One thing the outside world does to the block (70_reset_and_hazards.md R320, R329). `off` is a byte offset in the host
aperture (R61). -/
inductive Input where
  /-- A host read. -/
  | read (width : Width) (off : Nat)
  /-- A host write of `v`. Only a 32-bit write uses the value (R63). -/
  | write (width : Width) (off : Nat) (v : Word)
  /-- The platform asserts reset (R320). -/
  | reset
  deriving DecidableEq, Repr

/-- DMEM as a list of byte cells, addresses strictly rising. Byte address 4·i + j is lane j of word i (R46, R62). An
unlisted byte is unwritten: it holds no value of the model's, and reads as the free draw `Config.unwritten` (R74). -/
abbrev Memory := List Host.Cell

/-- The canonical form: addresses strictly rising. An unlisted byte reads as no fixed value, so no entry can repeat it. -/
abbrev Memory.wf (m : Memory) : Prop := m.Pairwise (fun a b => a.1 < b.1)

/-- Why a step can stop with a fault: never. The block has no traps and no command hangs (60_exceptions.md R280, R292); every
error is a next state (R290). The type has no constructor, so a fault is impossible by its type (safe). -/
inductive Fault where
  deriving DecidableEq, Repr

/-- Why a step can be refused. -/
inductive Refusal where
  /-- Raised by an arm of exec that has no meaning yet. No arm is left in this state (safe). -/
  | notModelled (mnemonic : String)
  /-- Raised by the host port when the next host access lies outside the 128 KiB aperture: such an access never reaches the
  block (93 I9, R60, R333; log entry 5). Safe: nothing is claimed of such an access. -/
  | outsideAperture
  deriving DecidableEq, Repr

/-- The state of the machine (R30): registers, DMEM, hidden engine state, and, last, what the model itself holds of the
outside world. -/
structure State where
  /-- The implementation's parameters, which no step changes (R8, log entry 1). ID and CFG are read from them (R36, R37). -/
  params : Params
  /-- CTRL[3:0]: IE_DONE, IE_ERR, IE_OVF, ALT8 (R38). -/
  ctrl : BitVec 4
  /-- STATUS.DONE (R39). -/
  done : Bool
  /-- STATUS.ERR (R39). -/
  err : Bool
  /-- STATUS.OVF, the sticky overflow flag (R39, R286). -/
  ovfFlag : Bool
  /-- STATUS.ECODE (R39, R288). -/
  ecode : ErrCode
  /-- LASTCMD, what a read of CMD returns (R41). -/
  lastCmd : Word
  /-- SRC[15:0] (R42). -/
  src : Half
  /-- DST[15:0] (R43). -/
  dst : Half
  /-- STRIDE[15:0] (R44). -/
  stride : Half
  /-- CMDCNT (R45). -/
  cmdcnt : Word
  /-- DMEM (R46). -/
  dmem : Memory
  /-- The accepted, not yet completed command word; STATUS.BUSY is 1 exactly when there is one (R47). -/
  pending : Option Word
  /-- The vector buffer V[0..63] (R47). -/
  vbuf : Vector Word 64
  /-- The per-command overflow indicator (R47, R12). -/
  ovf : Bool
  /-- Model's own: how many resets have happened, the index of the free draw of unwritten DMEM (R321, log entry 2). -/
  epoch : Nat
  /-- Model's own: what the outside world does next, oldest first (R329, log entry 3). -/
  inputs : List Input
  /-- Model's own: the values host reads have returned, newest first (R329, log entry 3). -/
  readData : List Word
  /-- Model's own: LATENCY of the commands to come, in inputs taken between acceptance and completion (R326, log entry 4). -/
  latency : List Nat
  /-- Model's own: how many inputs are still taken before the pending command completes (R326, log entry 4). -/
  delay : Nat
  deriving DecidableEq, Repr

/-- The machine right after reset (R49, R321), for given parameters: STRIDE is 1 and every other register 0, nothing is
pending, DMEM is unwritten. V is unspecified there; it is 0 here (log entry 6). -/
def State.resetWith (p : Params) : State where
  params := p
  ctrl := 0#4
  done := false
  err := false
  ovfFlag := false
  ecode := .none
  lastCmd := 0#32
  src := 0#16
  dst := 0#16
  stride := 1#16
  cmdcnt := 0#32
  dmem := []
  pending := .none
  vbuf := Vector.replicate 64 0#32
  ovf := false
  epoch := 0
  inputs := []
  readData := []
  latency := []
  delay := 0

/-- The machine right after reset, with the reference value NW = 4096 (R8, log entry 1). -/
def State.reset : State := State.resetWith Params.reference

end Sys2Proof.Machine
end

