-- ==== Sys2Proof/Machine/Flags.lean ====
section
/-! DEFINITION. STATUS and its flags (10_state.md R39, R40, R48): the interrupt level (R293), the word a host reads, the
write-1-to-clear write, the recording of an error (R288, R290) and of an overflow (R286). -/

namespace Sys2Proof.Machine

/-- The 4-bit code of an error (60_exceptions.md R281). -/
def ErrCode.code : ErrCode → BitVec 4
  | .none => 0#4
  | .illegal => 1#4
  | .range => 2#4
  | .overrun => 3#4
  | .bus => 4#4
  | .hostbusy => 5#4

/-- STATUS.BUSY: 1 exactly when a command is pending (R47). -/
def State.busy (s : State) : Bool := s.pending.isSome

/-- CTRL.IE_DONE (R38). -/
def State.ieDone (s : State) : Bool := s.ctrl.getLsbD 0

/-- CTRL.IE_ERR (R38). -/
def State.ieErr (s : State) : Bool := s.ctrl.getLsbD 1

/-- CTRL.IE_OVF (R38). -/
def State.ieOvf (s : State) : Bool := s.ctrl.getLsbD 2

/-- CTRL.ALT8, which no result depends on (R38, R176). -/
def State.alt8 (s : State) : Bool := s.ctrl.getLsbD 3

/-- The interrupt output, always equal to STATUS.IRQ (R293, R50). -/
def State.irq (s : State) : Bool :=
  (s.done && s.ieDone) || (s.err && s.ieErr) || (s.ovfFlag && s.ieOvf)

/-- STATUS as a host reads it (R39): bits 31:9 zero, IRQ, ECODE, OVF, ERR, DONE, BUSY. -/
def State.status (s : State) : Word :=
  0#23 ++ BitVec.ofBool s.irq ++ s.ecode.code ++ BitVec.ofBool s.ovfFlag ++ BitVec.ofBool s.err ++
    BitVec.ofBool s.done ++ BitVec.ofBool s.busy

/-- A host write of `v` to STATUS: bits 1, 2 and 3 clear DONE, ERR with ECODE, and OVF (R40). -/
def State.writeStatus (s : State) (v : Word) : State :=
  { s with
    done := s.done && !v.getLsbD 1
    err := s.err && !v.getLsbD 2
    ecode := if v.getLsbD 2 then .none else s.ecode
    ovfFlag := s.ovfFlag && !v.getLsbD 3 }

/-- SignalError(code): ERR is set, and ECODE takes the code if ERR was 0 (R290, R288). This is the block's only form of an
exception: no control transfer, nothing saved (R280, R296). -/
def State.signalError (s : State) (code : ErrCode) : State :=
  { s with
    ecode := if s.err then s.ecode else code
    err := true }

end Sys2Proof.Machine
end

