-- ==== Sys2Proof/Machine/Ops.lean ====
section
/-! DEFINITION. The named operations over DMEM and the registers: reads and writes of bytes and words (20_memory.md R62,
R64), the registers as the host sees them (10_state.md R34 to R45), the completion of a command with and without an error
(44_commands.md R230), and reset (70_reset_and_hazards.md R320). -/

namespace Sys2Proof.Machine

/-- NW, the number of DMEM words (R8). -/
def State.nw (s : State) : Nat := s.params.nw

/-- The byte listed at an address, if any. -/
def Memory.find : Memory → Nat → Option Byte
  | [], _ => none
  | (k, v) :: m, a => if k = a then some v else Memory.find m a

/-- Write one byte, keeping the addresses strictly rising. -/
def Memory.insert : Memory → Nat → Byte → Memory
  | [], a, b => [(a, b)]
  | (k, v) :: m, a, b =>
    if a < k then (a, b) :: (k, v) :: m
    else if a = k then (a, b) :: m
    else (k, v) :: Memory.insert m a b

/-- Byte lane j of a word (R62). -/
def lane (v : Word) (j : Nat) : Byte := v.extractLsb' (8 * j) 8

/-- The word of four byte lanes, lane 0 lowest (R62). -/
def ofLanes (b0 b1 b2 b3 : Byte) : Word := b3 ++ b2 ++ b1 ++ b0

/-- Write DMEM word i: its four lanes, at byte addresses 4·i to 4·i + 3 (R46, R62). -/
def Memory.writeWord (m : Memory) (i : Nat) (v : Word) : Memory :=
  (((m.insert (4 * i) (lane v 0)).insert (4 * i + 1) (lane v 1)).insert (4 * i + 2) (lane v 2)).insert (4 * i + 3) (lane v 3)

/-- What byte `a` of DMEM reads as: the byte written last, or the free draw while nothing has written it (R74; log entry
2). -/
def State.readByte (s : State) (a : Nat) : Byte :=
  match s.dmem.find a with
  | some b => b
  | none => Config.unwritten s.epoch a

/-- MemRead(i, 1): DMEM word i (R13). -/
def State.readWord (s : State) (i : Nat) : Word :=
  ofLanes (s.readByte (4 * i)) (s.readByte (4 * i + 1)) (s.readByte (4 * i + 2)) (s.readByte (4 * i + 3))

/-- MemWrite(i, 1, v): DMEM word i takes v (R13). -/
def State.writeWord (s : State) (i : Nat) (v : Word) : State := { s with dmem := s.dmem.writeWord i v }

/-- Write the words `y` to the DMEM words `is`, in order, so that a later duplicate address wins (R236, R245). -/
def Memory.writeWords (m : Memory) (is : List Nat) (y : List Word) : Memory :=
  (is.zip y).foldl (fun m p => m.writeWord p.1 p.2) m

/-- Put the words `y` into the first elements of the vector buffer (R47; log entry 7). -/
def setVector (v : Vector Word 64) (y : List Word) : Vector Word 64 :=
  Vector.ofFn (fun i => y.getD i.val v[i])

/-- ID (R36): "TXE" and revision 1. -/
def idWord : Word := 0x54584501#32

/-- CFG (R37): ALT8IMP = 1, WBITS = 32, QBITS = 24, LOG2NW. -/
def State.cfgWord (s : State) : Word :=
  0#7 ++ 1#1 ++ 0#2 ++ 32#6 ++ 0#3 ++ 24#5 ++ 0#3 ++ BitVec.ofNat 5 s.params.log2nw

/-- What a host read of a register offset returns (R34): the registers, and 0 at every reserved offset (R35, R61). -/
def State.readRegister (s : State) (off : Nat) : Word :=
  if off = 0x00 then idWord
  else if off = 0x04 then s.cfgWord
  else if off = 0x08 then s.ctrl.setWidth 32
  else if off = 0x0C then s.status
  else if off = 0x10 then s.lastCmd
  else if off = 0x14 then s.src.setWidth 32
  else if off = 0x18 then s.dst.setWidth 32
  else if off = 0x1C then s.stride.setWidth 32
  else if off = 0x20 then s.cmdcnt
  else 0#32

/-- Acceptance of the command word c by an idle engine (R41, R230): LASTCMD <- c, BUSY <- 1, DONE <- 0, pending <- c. The
command's LATENCY is the next of the schedule, 0 where the schedule has run out (R326; log entry 4). -/
def State.accept (s : State) (c : Word) : State :=
  { s with
    lastCmd := c
    pending := some c
    done := false
    delay := s.latency.headD 0
    latency := s.latency.tail }

/-- The common end of every completion (R230): DONE <- 1, CMDCNT + 1, pending <- none, BUSY <- 0. -/
def State.finish (s : State) : State :=
  { s with
    done := true
    cmdcnt := s.cmdcnt + 1#32
    pending := none
    delay := 0 }

/-- Completion of a command that returned normally with overflow indicator `o`: STATUS.OVF <- 1 if o = 1, then the common
end (R230, R286). -/
def State.completeOk (s : State) (o : Bool) : State :=
  State.finish { s with ovf := o, ovfFlag := s.ovfFlag || o }

/-- Completion of a command that raised `code`: the error is signalled, nothing else changes, then the common end (R230,
R290, R291). The overflow indicator was cleared at the start. -/
def State.completeErr (s : State) (code : ErrCode) : State :=
  State.finish (State.signalError { s with ovf := false } code)

/-- The platform's reset (R320, R321): every piece of the block's state takes its reset value, a pending command is
abandoned, and DMEM becomes unwritten, with new draws. The parameters stay, and so does what the model holds of the outside
world. -/
def State.platformReset (s : State) : State :=
  { State.resetWith s.params with
    epoch := s.epoch + 1
    inputs := s.inputs
    readData := s.readData
    latency := s.latency }

end Sys2Proof.Machine
end

