-- ==== Sys2Proof/Machine/Operands.lean ====
section
/-! DEFINITION. Operands of the transfer commands: the size (30_encoding.md R96), the gather and scatter lists and their check
(44_commands.md R236), and the one shared frame of every command that transfers data (R230, R236 to R244). -/

namespace Sys2Proof.Machine

/-- The three access patterns of R236. -/
inductive Mode where
  /-- Strided read, contiguous write: FDCT, FDST, FIDT. -/
  | fwd
  /-- Contiguous read, strided write: IDCT, IDST, IIDT. -/
  | inv
  /-- Contiguous on both sides: PERMF, PERMI. -/
  | perm
  deriving DecidableEq, Repr

/-- log2 N for a size code: N = 4 << SZ (R96). -/
def level (sz : BitVec 3) : Nat := sz.toNat + 2

/-- N = 4 << SZ (R96). -/
def size (sz : BitVec 3) : Nat := 2 ^ level sz

/-- G[i], the address element i is read from, in exact integers: no wrap and no masking to 16 bits (R236). -/
def State.gatherAddr (s : State) (m : Mode) (i : Nat) : Nat :=
  match m with
  | .fwd => s.src.toNat + i * s.stride.toNat
  | .inv => s.src.toNat + i
  | .perm => s.src.toNat + i

/-- S[i], the address element i is written to, in exact integers (R236). -/
def State.scatterAddr (s : State) (m : Mode) (i : Nat) : Nat :=
  match m with
  | .fwd => s.dst.toNat + i
  | .inv => s.dst.toNat + i * s.stride.toNat
  | .perm => s.dst.toNat + i

/-- G[0..N−1] (R236). -/
def State.gatherList (s : State) (m : Mode) (n : Nat) : List Nat := (List.range n).map (s.gatherAddr m)

/-- S[0..N−1] (R236). -/
def State.scatterList (s : State) (m : Mode) (n : Nat) : List Nat := (List.range n).map (s.scatterAddr m)

/-- The RANGE check: every address of both lists is below NW (R236, R283). -/
def State.inRange (s : State) (m : Mode) (n : Nat) : Bool :=
  (s.gatherList m n).all (fun a => decide (a < s.nw)) && (s.scatterList m n).all (fun a => decide (a < s.nw))

/-- Gather: the input vector x[0..N−1] (R236). -/
def State.gather (s : State) (m : Mode) (n : Nat) : List Word := (s.gatherList m n).map s.readWord

/-- Scatter of the output vector y, with y the final value of the vector buffer (R236, R47). -/
def State.scatter (s : State) (m : Mode) (n : Nat) (y : List Word) : State :=
  { s with
    dmem := s.dmem.writeWords (s.scatterList m n) y
    vbuf := setVector s.vbuf y }

/-- The frame of every command that transfers data (R230, R236): a reserved size is ILLEGAL (R282), an address outside DMEM is
RANGE before any access (R283), and otherwise the inputs are gathered, `f` computes the outputs, and they are scattered,
overflowed or not (R248). -/
def transfer (m : Mode) (sz : BitVec 3) (f : List Word → Composed) (s : State) : State :=
  if sizeOk sz then
    if s.inRange m (size sz) then
      let y := f (s.gather m (size sz))
      (s.scatter m (size sz) y.vec).completeOk y.ovf
    else s.completeErr .range
  else s.completeErr .illegal

/-- A forward transform's vector function: the composer, then PermFwd unless RAW = 1 (R237, R239, R199). -/
def forwardVec (composer : List Word → Composed) (table : List Nat) (raw : Bool) (x : List Word) : Composed :=
  let v := composer x
  if raw then v else ⟨permFwd table v.vec, v.ovf⟩

/-- An inverse transform's vector function: PermInv unless RAW = 1, then the composer (R238, R240, R199). -/
def inverseVec (composer : List Word → Composed) (table : List Nat) (raw : Bool) (x : List Word) : Composed :=
  composer (if raw then x else permInv table x)

end Sys2Proof.Machine
end

