-- ==== Sys2Proof/Machine/Identity.lean ====
section
/-! DEFINITION. The identity commands (44_commands.md R241, R242): a copy with no arithmetic, no gain and no permutation (92
D29). Each meaning is the command's whole completion (R230). -/

namespace Sys2Proof.Machine

/-- The identity on a vector: no store, so ovf stays 0 (R241). -/
def copyVec (x : List Word) : Composed := ⟨x, false⟩

/-- FIDT.N, the forward identity: strided read, contiguous write (R241). -/
def execFidt (sz : BitVec 3) (s : State) : Host.Outcome State Fault Refusal := .next (transfer .fwd sz copyVec s)

/-- IIDT.N, the inverse identity: contiguous read, strided write (R242). -/
def execIidt (sz : BitVec 3) (s : State) : Host.Outcome State Fault Refusal := .next (transfer .inv sz copyVec s)

end Sys2Proof.Machine
end

