-- ==== Sys2Proof/Machine/Permute.lean ====
section
/-! DEFINITION. The permutation commands (44_commands.md R243, R244): words are moved, nothing is computed (42_permutation.md
R195, R196). Each meaning is the command's whole completion (44_commands.md R230). -/

namespace Sys2Proof.Machine

/-- What PERMF computes: slot order to frequency order (R243). -/
def permfVec (sz : BitVec 3) (tbl : Table) (x : List Word) : Composed := ⟨permFwd (permTable tbl (level sz)) x, false⟩

/-- What PERMI computes: frequency order to slot order (R244). -/
def permiVec (sz : BitVec 3) (tbl : Table) (x : List Word) : Composed := ⟨permInv (permTable tbl (level sz)) x, false⟩

/-- PERMF.DCT.N or PERMF.DST.N (R243). -/
def execPermf (sz : BitVec 3) (tbl : Table) (s : State) : Host.Outcome State Fault Refusal :=
  .next (transfer .perm sz (permfVec sz tbl) s)

/-- PERMI.DCT.N or PERMI.DST.N (R244). -/
def execPermi (sz : BitVec 3) (tbl : Table) (s : State) : Host.Outcome State Fault Refusal :=
  .next (transfer .perm sz (permiVec sz tbl) s)

end Sys2Proof.Machine
end

