-- ==== Sys2Proof/Machine/Setters.lean ====
section
/-! DEFINITION. NOP and the address-register setters (44_commands.md R232 to R235). Each meaning is the command's whole
completion (R230). -/

namespace Sys2Proof.Machine

/-- NOP: nothing but the completion itself (R232). -/
def execNop (s : State) : Host.Outcome State Fault Refusal := .next (s.completeOk false)

/-- SETSRC imm: SRC <- imm, with no range check (R233). -/
def execSetsrc (imm : Half) (s : State) : Host.Outcome State Fault Refusal :=
  .next (State.completeOk { s with src := imm } false)

/-- SETDST imm: DST <- imm, with no range check (R234). -/
def execSetdst (imm : Half) (s : State) : Host.Outcome State Fault Refusal :=
  .next (State.completeOk { s with dst := imm } false)

/-- SETSTR imm: STRIDE <- imm, with no range check (R235). -/
def execSetstr (imm : Half) (s : State) : Host.Outcome State Fault Refusal :=
  .next (State.completeOk { s with stride := imm } false)

end Sys2Proof.Machine
end

