-- ==== Sys2Proof/Machine/Transforms.lean ====
section
/-! DEFINITION. The transform commands (44_commands.md R237 to R240). Each meaning is the command's whole completion (R230).
CTRL.ALT8 is not read: both settings give the same words and the same ovf (41_composers.md R176). -/

namespace Sys2Proof.Machine

/-- What FDCT computes on its gathered vector (R237). -/
def fdctVec (sz : BitVec 3) (fam : Family) (raw : Bool) (x : List Word) : Composed :=
  forwardVec (c2 fam (level sz)) (permC2 (level sz)) raw x

/-- What IDCT computes on its gathered vector (R238). -/
def idctVec (sz : BitVec 3) (fam : Family) (raw : Bool) (x : List Word) : Composed :=
  inverseVec (ic2 fam (level sz)) (permC2 (level sz)) raw x

/-- What FDST computes on its gathered vector (R239). -/
def fdstVec (sz : BitVec 3) (fam : Family) (raw : Bool) (x : List Word) : Composed :=
  forwardVec (s4 fam (level sz)) (permS4 (level sz)) raw x

/-- What IDST computes on its gathered vector (R240). -/
def idstVec (sz : BitVec 3) (fam : Family) (raw : Bool) (x : List Word) : Composed :=
  inverseVec (is4 fam (level sz)) (permS4 (level sz)) raw x

/-- FDCT.N[.F][.R], the forward DCT-II (R237). -/
def execFdct (sz : BitVec 3) (fam : Family) (raw : Bool) (s : State) : Host.Outcome State Fault Refusal :=
  .next (transfer .fwd sz (fdctVec sz fam raw) s)

/-- IDCT.N[.F][.R], the inverse DCT-II (R238). -/
def execIdct (sz : BitVec 3) (fam : Family) (raw : Bool) (s : State) : Host.Outcome State Fault Refusal :=
  .next (transfer .inv sz (idctVec sz fam raw) s)

/-- FDST.N[.F][.R], the forward DST-IV (R239). -/
def execFdst (sz : BitVec 3) (fam : Family) (raw : Bool) (s : State) : Host.Outcome State Fault Refusal :=
  .next (transfer .fwd sz (fdstVec sz fam raw) s)

/-- IDST.N[.F][.R], the inverse DST-IV (R240). -/
def execIdst (sz : BitVec 3) (fam : Family) (raw : Bool) (s : State) : Host.Outcome State Fault Refusal :=
  .next (transfer .inv sz (idstVec sz fam raw) s)

end Sys2Proof.Machine
end

