-- ==== Sys2Proof/Machine/Dispatch.lean ====
section
/-! DEFINITION. exec: the meaning of each command, one arm per constructor of Instr (30_encoding.md R98). -/

namespace Sys2Proof.Machine

/-- The completion of the decoded command (44_commands.md R230: Execute(d) and the frame around it). -/
def exec (i : Instr) (s : State) : Host.Outcome State Fault Refusal :=
  match i with
  | .nop => Sys2Proof.Machine.execNop s
  | .setsrc imm => Sys2Proof.Machine.execSetsrc imm s
  | .setdst imm => Sys2Proof.Machine.execSetdst imm s
  | .setstr imm => Sys2Proof.Machine.execSetstr imm s
  | .fdct sz fam raw => Sys2Proof.Machine.execFdct sz fam raw s
  | .idct sz fam raw => Sys2Proof.Machine.execIdct sz fam raw s
  | .fdst sz fam raw => Sys2Proof.Machine.execFdst sz fam raw s
  | .idst sz fam raw => Sys2Proof.Machine.execIdst sz fam raw s
  | .fidt sz => Sys2Proof.Machine.execFidt sz s
  | .iidt sz => Sys2Proof.Machine.execIidt sz s
  | .permf sz tbl => Sys2Proof.Machine.execPermf sz tbl s
  | .permi sz tbl => Sys2Proof.Machine.execPermi sz tbl s

end Sys2Proof.Machine
end

