-- ==== Sys2Proof/Machine/HostPort.lean ====
section
/-! DEFINITION. The host's moves and the block's answer to each (70_reset_and_hazards.md R329): reads, writes and the
platform's reset, over the aperture of 20_memory.md R61. Width and alignment are checked first (60_exceptions.md R289). -/

namespace Sys2Proof.Machine

/-- The size of the host aperture in bytes: offsets 0x0_0000 to 0x1_FFFF (R60). -/
def apertureBytes : Nat := 0x20000

/-- The first offset of the DMEM window (R61). -/
def windowBase : Nat := 0x10000

/-- An access the block accepts: 32-bit, at a multiple of 4 (R63). -/
def accessOk (w : Width) (off : Nat) : Bool := decide (w = .bits32) && decide (off % 4 = 0)

/-- The DMEM word an offset reaches, if it lies in the DMEM window (R61). -/
def State.windowWord (s : State) (off : Nat) : Option Nat :=
  if windowBase ≤ off ∧ off < windowBase + 4 * s.nw then some ((off - windowBase) / 4) else none

/-- A host read inside the aperture: the data returned and the state after (R66). -/
def State.hostRead (s : State) (w : Width) (off : Nat) : Word × State :=
  if accessOk w off then
    match s.windowWord off with
    | some i => if s.busy then (0#32, s.signalError .hostbusy) else (s.readWord i, s)
    | none => (s.readRegister off, s)
  else (0#32, s.signalError .bus)

/-- A host write to an address register or to DMEM: refused with HOSTBUSY while BUSY = 1 (R42 to R44, R75, R287). -/
def State.whenIdle (s : State) (done : State) : State := if s.busy then s.signalError .hostbusy else done

/-- A host write to a register offset; ID, CFG, CMDCNT and the reserved offsets ignore it (R34 to R45, R61). -/
def State.writeRegister (s : State) (off : Nat) (v : Word) : State :=
  if off = 0x08 then { s with ctrl := v.setWidth 4 }
  else if off = 0x0C then s.writeStatus v
  else if off = 0x10 then (if s.busy then s.signalError .overrun else s.accept v)
  else if off = 0x14 then s.whenIdle { s with src := v.setWidth 16 }
  else if off = 0x18 then s.whenIdle { s with dst := v.setWidth 16 }
  else if off = 0x1C then s.whenIdle { s with stride := v.setWidth 16 }
  else s

/-- A host write inside the aperture (R66). -/
def State.hostWrite (s : State) (w : Width) (off : Nat) (v : Word) : State :=
  if accessOk w off then
    match s.windowWord off with
    | some i => s.whenIdle (s.writeWord i v)
    | none => s.writeRegister off v
  else s.signalError .bus

/-- Take the next input off the queue; the pending command, if any, is one input nearer its completion (R326; log entry
4). -/
def State.takeInput (s : State) (rest : List Input) : State := { s with inputs := rest, delay := s.delay - 1 }

/-- The step of the outside world: its next input `x`, with `rest` still to come (R329, R320). An access outside the aperture
never reaches the block and is refused by name (93 I9; log entry 5). -/
def hostStep (s : State) (x : Input) (rest : List Input) : Host.Outcome State Fault Refusal :=
  let t := s.takeInput rest
  match x with
  | .read w off =>
    if off < apertureBytes then
      let r := t.hostRead w off
      .next { r.2 with readData := r.1 :: r.2.readData }
    else .refused .outsideAperture
  | .write w off v => if off < apertureBytes then .next (t.hostWrite w off v) else .refused .outsideAperture
  | .reset => .next t.platformReset

end Sys2Proof.Machine
end

