-- ==== Sys2Proof/Machine/Engine.lean ====
section
/-! DEFINITION. The two agents (10_state.md R30): the engine's one step Complete() (44_commands.md R230) and the choice of which
agent moves next (70_reset_and_hazards.md R330). -/

namespace Sys2Proof.Machine

/-- Complete(): the pending word c is decoded; an ILLEGAL word completes with the error ILLEGAL and no other effect (R282),
a command with its own meaning (R230). -/
def engineStep (c : Word) (s : State) : Host.Outcome State Fault Refusal :=
  match decode c with
  | .command i => exec i s
  | .illegal _ => .next (s.completeErr .illegal)

/-- One transition of the machine (R330). With a command pending, the engine moves when the command's latency has run out or
no input is left, else the outside world does; with none pending, the outside world moves. With nothing left to do the
block stays idle (R333, R304). -/
def nextStep (s : State) : Host.Outcome State Fault Refusal :=
  match s.pending, s.inputs with
  | some c, [] => engineStep c s
  | some c, x :: rest => if s.delay = 0 then engineStep c s else hostStep s x rest
  | none, [] => .next s
  | none, x :: rest => hostStep s x rest

/-- The state in which the command word c has been accepted and its completion is the next transition (R230): what a host
write of c to CMD leaves, with LATENCY at its end. -/
def State.placeCommand (s : State) (c : Word) : State :=
  { s with
    lastCmd := c
    pending := some c
    done := false
    delay := 0 }

end Sys2Proof.Machine
end

