-- ==== Sys2Proof/Machine/Step.lean ====
section
/-! DEFINITION. The step function (70_reset_and_hazards.md R330), and the placing of one command word for the host's tick
list. -/

namespace Sys2Proof.Machine

/-- One step of the machine: an engine completion, one input of the outside world, or idling (R330). -/
def step (s : State) : Host.Outcome State Fault Refusal := nextStep s

/-- `s` with the command word `w` accepted and due to complete in the very next step (R230; log entry 3). -/
def State.withFetchWord (s : State) (nbits w : Nat) : State := s.placeCommand (tableWord nbits w)

end Sys2Proof.Machine
end

