-- ==== Sys2Proof/Safety.lean ====
section
/-! DEFINITION. What claims call a well-kept state, when a step cannot be refused, and the composers' rules as the spec writes them. -/

namespace Sys2Proof.Machine

/-- Every listed byte belongs to one of the NW words (R46). -/
abbrev Memory.within (m : Memory) (nw : Nat) : Prop := ∀ cell ∈ m, cell.1 < 4 * nw

/-- DMEM keeps its canonical form and lies in 0 .. NW − 1 (R46). -/
def State.memOk (s : State) : Prop := s.dmem.wf ∧ s.dmem.within s.nw

/-- ECODE is 0 exactly while ERR is 0 (R40, R288). -/
def State.errOk (s : State) : Prop := s.err = true ↔ s.ecode ≠ ErrCode.none

/-- While BUSY = 1 the pending command is LASTCMD and DONE is 0 (R41, R230). -/
def State.busyOk (s : State) : Prop := ∀ c, s.pending = some c → s.lastCmd = c ∧ s.done = false

/-- The invariant of the machine: it holds at reset, and every step keeps it. -/
structure State.Inv (s : State) : Prop where
  mem : s.memOk
  err : s.errOk
  busy : s.busyOk

/-- The offset of an input lies in the aperture; a reset has none (R60). -/
def Input.inAperture : Input → Bool
  | .read _ off => decide (off < apertureBytes)
  | .write _ off _ => decide (off < apertureBytes)
  | .reset => true

/-- Every input to come reaches the block (R60, 93 I9): the premise under which no step is refused. -/
def State.inputsOk (s : State) : Prop := ∀ x ∈ s.inputs, x.inAperture = true

/-- A pending command completes in the next step: it is the engine's turn (R330). -/
def State.engineTurn (s : State) : Prop := s.delay = 0 ∨ s.inputs = []

/-- The next step is the outside world's (R330). -/
def State.hostTurn (s : State) : Prop := s.pending = none ∨ s.delay ≠ 0

/-- `t` is `s` after the normal completion of a command whose overflow indicator is `o`, as far as the flags, the counter, the
hidden engine state and the registers no command writes go (R230, R286). -/
structure State.CompletedTo (s t : State) (o : Bool) : Prop where
  done : t.done = true
  idle : t.pending = none
  count : t.cmdcnt = s.cmdcnt + 1#32
  indicator : t.ovf = o
  overflow : t.ovfFlag = (s.ovfFlag || o)
  noError : t.err = s.err ∧ t.ecode = s.ecode
  ctrl : t.ctrl = s.ctrl
  lastCmd : t.lastCmd = s.lastCmd

/-- SRC, DST and STRIDE are as before. -/
def State.AddressRegsKept (s t : State) : Prop := t.src = s.src ∧ t.dst = s.dst ∧ t.stride = s.stride

/-- What the model itself holds of the implementation and the outside world is as before. -/
def State.OutsideKept (s t : State) : Prop :=
  t.params = s.params ∧ t.epoch = s.epoch ∧ t.inputs = s.inputs ∧ t.readData = s.readData ∧ t.latency = s.latency

/-! The composers' rules as the spec writes them, loop by loop, each said of one input vector of N = 2^(n+1) words, with
h = 2^n. Claims say that the composers meet them; the composers do not use them. -/

/-- C2_N (R153): for i below h, (s[i], d[i]) is REFL_64 of (x[i], x[N−1−i]); E is C2_h of s and F is S4_h of the reversed d;
slot i is E[i], and slot h + i is F[i], negated where permS4_h[i] is odd. ovf is the OR over these stores (R158). -/
def DctLoop (fam : Family) (n : Nat) (x : List Word) : Prop :=
  let h := 2 ^ n
  let bf := fun i => reflect fam 64 (elt x i) (elt x (2 * h - 1 - i))
  let e := c2 fam n ((List.range h).map (fun i => (bf i).p))
  let f := s4 fam n ((List.range h).map (fun i => (bf (h - 1 - i)).q))
  let neg := fun i => negate (elt f.vec i)
  let out := c2 fam (n + 1) x
  out.vec.length = 2 * h ∧
  (∀ i < h, elt out.vec i = elt e.vec i) ∧
  (∀ i < h, nth (permS4 n) i % 2 = 1 → elt out.vec (h + i) = (neg i).val) ∧
  (∀ i < h, nth (permS4 n) i % 2 ≠ 1 → elt out.vec (h + i) = elt f.vec i) ∧
  (out.ovf = true ↔ (∃ i < h, (bf i).ovf = true) ∨ e.ovf = true ∨ f.ovf = true ∨
    ∃ i < h, nth (permS4 n) i % 2 = 1 ∧ (neg i).ovf = true)

/-- S4_M, M = 2h (R154, R155): for i below h, (u[i], v) is REFL of angle (2i + 1)·64 / M of (x[M−1−i], x[i]), and w[i] is v,
negated where i is odd; U and V are C2_h of u and w; for j from 1 to h − 1, with a = σ_h(j), b = σ_h(h−j) and (p, q) the
REFL_64 of (U[a], V[b]), slot a is −p and slot h + b is q; slot 0 is U[0], and slot h is −V[0]. ovf is the OR over these
stores (R158). -/
def DstLoop (fam : Family) (n : Nat) (x : List Word) : Prop :=
  let h := 2 ^ n
  let pre := fun i => reflect fam ((2 * i + 1) * 64 / (2 * h)) (elt x (2 * h - 1 - i)) (elt x i)
  let w := fun i => if i % 2 = 1 then (negate (pre i).q).val else (pre i).q
  let u := c2 fam n ((List.range h).map (fun i => (pre i).p))
  let v := c2 fam n ((List.range h).map w)
  let post := fun j => reflect fam 64 (elt u.vec (sigma n j)) (elt v.vec (sigma n (h - j)))
  let out := s4 fam (n + 1) x
  out.vec.length = 2 * h ∧
  elt out.vec 0 = elt u.vec 0 ∧
  (∀ j < h, 1 ≤ j → elt out.vec (sigma n j) = (negate (post j).p).val ∧
    elt out.vec (h + sigma n (h - j)) = (post j).q) ∧
  elt out.vec h = (negate (elt v.vec 0)).val ∧
  (out.ovf = true ↔ (∃ i < h, (pre i).ovf = true) ∨ (∃ i < h, i % 2 = 1 ∧ (negate (pre i).q).ovf = true) ∨
    u.ovf = true ∨ v.ovf = true ∨
    (∃ j < h, 1 ≤ j ∧ ((post j).ovf = true ∨ (negate (post j).p).ovf = true)) ∨ (negate (elt v.vec 0)).ovf = true)

/-- iC2_N (R156): E is the first half of y; F[i] is y[h + i], negated where permS4_h[i] is odd; s is iC2_h of E and the
reversed d is iS4_h of F; (x[i], x[N−1−i]) is IREFL_64 of (s[i], d[i]). ovf is the OR over these stores (R158). -/
def InverseDctLoop (fam : Family) (n : Nat) (y : List Word) : Prop :=
  let h := 2 ^ n
  let neg := fun i => negate (elt y (h + i))
  let f := fun i => if nth (permS4 n) i % 2 = 1 then (neg i).val else elt y (h + i)
  let s := ic2 fam n ((List.range h).map (elt y))
  let jd := is4 fam n ((List.range h).map f)
  let bf := fun i => ireflect fam 64 (elt s.vec i) (elt jd.vec (h - 1 - i))
  let out := ic2 fam (n + 1) y
  out.vec.length = 2 * h ∧
  (∀ i < h, elt out.vec i = (bf i).p ∧ elt out.vec (2 * h - 1 - i) = (bf i).q) ∧
  (out.ovf = true ↔ (∃ i < h, nth (permS4 n) i % 2 = 1 ∧ (neg i).ovf = true) ∨ s.ovf = true ∨ jd.ovf = true ∨
    ∃ i < h, (bf i).ovf = true)

/-- iS4_M, M = 2h (R157), with U and V the vectors its loop (3) leaves: U[0] is o[0], V[0] is −o[h], and for j from 1 to h − 1,
with a = σ_h(j) and b = σ_h(h−j), (U[a], V[b]) is IREFL_64 of (−o[a], o[h + b]); u and w are iC2_h of U and V; v is w[i], negated
where i is odd, and (x[M−1−i], x[i]) is IREFL of angle (2i + 1)·64 / M of (u[i], v). ovf is the OR over these stores (R158). -/
def InverseDstLoop (fam : Family) (n : Nat) (o u₀ v₀ : List Word) : Prop :=
  let h := 2 ^ n
  let neg := fun j => negate (elt o (sigma n j))
  let post := fun j => ireflect fam 64 (neg j).val (elt o (h + sigma n (h - j)))
  let u := ic2 fam n u₀
  let w := ic2 fam n v₀
  let v := fun i => if i % 2 = 1 then (negate (elt w.vec i)).val else elt w.vec i
  let pre := fun i => ireflect fam ((2 * i + 1) * 64 / (2 * h)) (elt u.vec i) (v i)
  let out := is4 fam (n + 1) o
  u₀.length = h ∧ v₀.length = h ∧ elt u₀ 0 = elt o 0 ∧ elt v₀ 0 = (negate (elt o h)).val ∧
  (∀ j < h, 1 ≤ j → elt u₀ (sigma n j) = (post j).p ∧ elt v₀ (sigma n (h - j)) = (post j).q) ∧
  out.vec.length = 2 * h ∧
  (∀ i < h, elt out.vec (2 * h - 1 - i) = (pre i).p ∧ elt out.vec i = (pre i).q) ∧
  (out.ovf = true ↔ (negate (elt o h)).ovf = true ∨
    (∃ j < h, 1 ≤ j ∧ ((neg j).ovf = true ∨ (post j).ovf = true)) ∨ u.ovf = true ∨ w.ovf = true ∨
    (∃ i < h, i % 2 = 1 ∧ (negate (elt w.vec i)).ovf = true) ∨ ∃ i < h, (pre i).ovf = true)

end Sys2Proof.Machine

namespace Sys2Proof

/-- The access pattern and the size code of a command that transfers data (R236). -/
def Instr.transferShape : Instr → Option (Machine.Mode × BitVec 3)
  | .nop => none
  | .setsrc _ => none
  | .setdst _ => none
  | .setstr _ => none
  | .fdct sz _ _ => some (.fwd, sz)
  | .idct sz _ _ => some (.inv, sz)
  | .fdst sz _ _ => some (.fwd, sz)
  | .idst sz _ _ => some (.inv, sz)
  | .fidt sz => some (.fwd, sz)
  | .iidt sz => some (.inv, sz)
  | .permf sz _ => some (.perm, sz)
  | .permi sz _ => some (.perm, sz)

/-- The command is one of the four that compute (R237 to R240); only these can set OVF (R286). -/
def Instr.computes : Instr → Bool
  | .nop => false
  | .setsrc _ => false
  | .setdst _ => false
  | .setstr _ => false
  | .fdct _ _ _ => true
  | .idct _ _ _ => true
  | .fdst _ _ _ => true
  | .idst _ _ _ => true
  | .fidt _ => false
  | .iidt _ => false
  | .permf _ _ => false
  | .permi _ _ => false

end Sys2Proof
end

