-- ==== Sys2Proof/Certificates/Slice0/Obligations.lean ====
section
/-! DEFINITION. The statements for the provers, grouped as the spec's files are. In all of them `params`, `epoch`, `inputs`,
`readData`, `latency` and `delay` are the model's own fields (log entries 1 to 4), not the spec's. -/

open Sys2Proof Sys2Proof.Machine

/-! ## Encoding (30_encoding.md) -/

/-- R92 to R99: decoding the command word of a well-formed instruction gives that instruction back. -/
def Obligations.EncodedCommandDecodesBack : Prop :=
  ∀ i : Instr, i.WellFormed → decode (encode i) = .command i

/-- R92 to R99, the other direction: a word that decodes to a command is that command's only word, and the command is
well-formed. -/
def Obligations.DecodedCommandHasOneWord : Prop :=
  ∀ (c : Word) (i : Instr), decode c = .command i → i.WellFormed ∧ encode i = c

/-- R98: a word is a command exactly when a row of the opcode map selects it, it is then that row's command, and no two rows
match the same word. -/
def Obligations.OpcodeMapSelectsTheCommand : Prop :=
  (∀ (c : Word) (name : String),
    (∃ r ∈ opcodeMap, r.mnemonic = name ∧ c &&& r.mask = r.pattern ∧ (r.sized = true → (c.extractLsb' 3 3).toNat ≤ 4)) ↔
      ∃ i, decode c = .command i ∧ i.mnemonic = name) ∧
  (∀ (c : Word) (r₁ r₂ : OpcodeRow), r₁ ∈ opcodeMap → r₂ ∈ opcodeMap →
    c &&& r₁.mask = r₁.pattern → c &&& r₂.mask = r₂.pattern → r₁ = r₂)

/-- R100: the ILLEGAL words are exactly the reserved ones: OP = 0x6 to 0xF, a must-be-0 bit set in some format, KIND = 11, SZ = 5
to 7, FIDT or IIDT with FAM or RAW, and format P with bit 2; and no word but 0 is a NOP, so there are no hints. -/
def Obligations.IllegalWordsAreTheReservedOnes : Prop :=
  (∀ c : Word,
    let op := (c.extractLsb' 28 4).toNat
    (6 ≤ op ∨
      (op = 0 ∧ c.extractLsb' 0 28 ≠ 0#28) ∨
      ((op = 1 ∨ op = 2 ∨ op = 3) ∧ c.extractLsb' 16 12 ≠ 0#12) ∨
      (op = 4 ∧ (c.extractLsb' 8 20 ≠ 0#20 ∨ c.extractLsb' 1 2 = 3#2 ∨ 5 ≤ (c.extractLsb' 3 3).toNat ∨
        (c.extractLsb' 1 2 = 2#2 ∧ (c.getLsbD 6 = true ∨ c.getLsbD 7 = true)))) ∨
      (op = 5 ∧ (c.extractLsb' 6 22 ≠ 0#22 ∨ c.getLsbD 2 = true ∨ 5 ≤ (c.extractLsb' 3 3).toNat))) ↔
    ∃ why, decode c = .illegal why) ∧
  (∀ c : Word, decode c = .command .nop → c = 0#32)

/-- R101: words written out from the spec's formats decode to the commands they stand for. -/
def Obligations.WrittenWordsDecode : Prop :=
  decode 0x00000000#32 = .command .nop ∧
  decode 0x10000100#32 = .command (.setsrc 256#16) ∧
  decode 0x40000008#32 = .command (.fdct 1#3 .precise false) ∧
  decode 0x40000048#32 = .command (.fdct 1#3 .flattened false) ∧
  decode 0x400000C8#32 = .command (.fdct 1#3 .flattened true) ∧
  decode 0x400000A3#32 = .command (.idst 4#3 .precise true) ∧
  decode 0x40000014#32 = .command (.fidt 2#3) ∧
  decode 0x5000001B#32 = .command (.permi 3#3 .dst)

/-! ## The machine's two agents (10_state.md, 44_commands.md R230, 70_reset_and_hazards.md) -/

/-- R230: on the engine's turn, a pending word that decodes to a command is executed, and the step adds nothing to its
meaning. When the engine moves is the model's (log entry 4). -/
def Obligations.StepRunsTheDecodedCommand : Prop :=
  ∀ (s : State) (c : Word) (i : Instr),
    s.pending = some c → s.engineTurn → decode c = .command i → step s = exec i s

/-- R282: a pending ILLEGAL word completes with ERR, the first-error ECODE and no other effect. The field `delay` is the
model's (log entry 4). -/
def Obligations.IllegalWordCompletesWithError : Prop :=
  ∀ (s : State) (c : Word) (why : IllegalReason),
    s.pending = some c → s.engineTurn → decode c = .illegal why →
    step s = .next { s with
      err := true
      ecode := if s.err then s.ecode else .illegal
      ovf := false
      done := true
      cmdcnt := s.cmdcnt + 1#32
      pending := none
      delay := 0 }

/-- R41: a host write of CMD while idle accepts the word. The field `inputs` is the model's (log entry 3). -/
def Obligations.CommandWriteIsAccepted : Prop :=
  ∀ (s : State) (c : Word) (rest : List Input),
    s.inputs = .write .bits32 0x10 c :: rest → s.pending = none →
    ∃ t, step s = .next t ∧ t.lastCmd = c ∧ t.pending = some c ∧ t.busy = true ∧ t.done = false ∧
      t.dmem = s.dmem ∧ s.AddressRegsKept t ∧ t.ctrl = s.ctrl ∧ t.cmdcnt = s.cmdcnt ∧
      t.err = s.err ∧ t.ecode = s.ecode ∧ t.ovfFlag = s.ovfFlag ∧ t.inputs = rest

/-- R284: a host write of CMD while busy is dropped and signals OVERRUN. The fields `inputs` and `delay` are the model's (log
entries 3 and 4). -/
def Obligations.CommandWriteWhileBusyIsDropped : Prop :=
  ∀ (s : State) (c v : Word) (rest : List Input),
    s.inputs = .write .bits32 0x10 v :: rest → s.pending = some c → s.delay ≠ 0 →
    step s = .next { s with
      inputs := rest
      delay := s.delay - 1
      err := true
      ecode := if s.err then s.ecode else .overrun }

/-- R230, R41, R90: a host write of a well-formed instruction's word, with the command's latency over, is followed by that
instruction's completion: two steps of the machine run it. The fields `inputs` and `latency` are the model's (log entries 3
and 4). -/
def Obligations.WrittenCommandRuns : Prop :=
  ∀ (s : State) (i : Instr) (rest : List Input),
    i.WellFormed → s.inputs = .write .bits32 0x10 (encode i) :: rest → s.pending = none → s.latency.headD 0 = 0 →
    ∃ t, step s = .next t ∧ t.pending = some (encode i) ∧ t.dmem = s.dmem ∧ s.AddressRegsKept t ∧
      Sys2Proof.core.run 2 s = exec i t

/-- R292, R326: every accepted command completes: with no reset among the inputs and every input inside the aperture, the
pending command completes after the inputs its latency still lets in, and is counted once. How the latency counts, and that
an access lies inside the aperture when its first byte does, is the model's (log entries 4 and 14). -/
def Obligations.PendingCommandCompletes : Prop :=
  ∀ (s : State) (c : Word),
    s.pending = some c → s.inputsOk → Input.reset ∉ s.inputs →
    ∃ t, Sys2Proof.core.run (min s.delay s.inputs.length + 1) s = .next t ∧
      t.pending = none ∧ t.done = true ∧ t.cmdcnt = s.cmdcnt + 1#32 ∧ t.lastCmd = s.lastCmd

/-- R45, R49, R321: CMDCNT is 0 at reset and counts completions: a step of the engine adds one modulo 2^32, error or not, a
reset clears it, and no other input changes it, a dropped CMD write and a write to CMDCNT itself included. Whose turn it is
is the model's (log entry 4). -/
def Obligations.CountIsOfCompletions : Prop :=
  State.reset.cmdcnt = 0#32 ∧
  ∀ s t : State, step s = .next t →
    (∀ c, s.pending = some c → s.engineTurn → t.cmdcnt = s.cmdcnt + 1#32) ∧
    (s.hostTurn → ∀ x rest, s.inputs = x :: rest → t.cmdcnt = if x = .reset then 0#32 else s.cmdcnt)

/-- R65, R287, R331: while a command is pending, no host access changes DMEM, SRC, DST, STRIDE, the pending word or LASTCMD,
so a command uses at its completion what stood at its acceptance. That V keeps its words is the model's (log entry 7). -/
def Obligations.BusyStateIsFrozenForTheHost : Prop :=
  ∀ (s t : State) (c : Word) (x : Input) (rest : List Input),
    s.pending = some c → s.delay ≠ 0 → s.inputs = x :: rest → x ≠ .reset → step s = .next t →
    t.pending = some c ∧ t.dmem = s.dmem ∧ (∀ a, t.readByte a = s.readByte a) ∧ s.AddressRegsKept t ∧
      t.lastCmd = s.lastCmd ∧ t.vbuf = s.vbuf

/-- R280, R292: no step stops while every input lies inside the aperture. That no step faults is log entry 15; the refusal
outside the aperture is log entry 5; that an access lies inside it when its first byte does is log entry 14, unsafe for a
wide or misaligned access across the last byte. -/
def Obligations.StepNeverStopsInTheAperture : Prop :=
  ∀ s : State, s.inputsOk → ∃ t, step s = .next t ∧ t.inputsOk

/-- The invariant of the machine is kept by every step: DMEM in canonical form, which is the model's (log entry 8), and
within NW words, ECODE 0 exactly while ERR is 0, and, while busy, LASTCMD the pending word and DONE 0 (R40, R41, R46, R288). -/
def Obligations.EveryStepKeepsTheInvariant : Prop :=
  ∀ s t : State, s.Inv → step s = .next t → t.Inv

/-- The invariant holds after reset (R49); its canonical form of DMEM is the model's (log entry 8). -/
def Obligations.ResetMeetsTheInvariant : Prop := State.reset.Inv

/-- R49, R321: the values after reset, as a host reads them. NW = 4096 at reset is the model's (log entry 1). -/
def Obligations.ResetValues : Prop :=
  State.reset.ctrl = 0#4 ∧ State.reset.status = 0#32 ∧ State.reset.lastCmd = 0#32 ∧ State.reset.src = 0#16 ∧
  State.reset.dst = 0#16 ∧ State.reset.stride = 1#16 ∧ State.reset.cmdcnt = 0#32 ∧ State.reset.pending = none ∧
  State.reset.ovf = false ∧ State.reset.irq = false ∧ State.reset.readRegister 0 = 0x54584501#32 ∧
  State.reset.readRegister 4 = 0x0120180C#32 ∧ ∀ a, State.reset.dmem.find a = none

/-- R320, R321: a reset at any time abandons the pending command and leaves every register at its reset value and every DMEM
byte unwritten. The fields `inputs` and `params` are the model's (log entries 1 and 3). -/
def Obligations.ResetAbandonsThePendingCommand : Prop :=
  ∀ (s : State) (rest : List Input), s.inputs = .reset :: rest → s.hostTurn →
    ∃ t, step s = .next t ∧ t.ctrl = 0#4 ∧ t.status = 0#32 ∧ t.lastCmd = 0#32 ∧ t.src = 0#16 ∧ t.dst = 0#16 ∧
      t.stride = 1#16 ∧ t.cmdcnt = 0#32 ∧ t.pending = none ∧ t.ovf = false ∧ t.irq = false ∧
      (∀ a, t.dmem.find a = none) ∧ t.readRegister 0x00 = 0x54584501#32 ∧
      t.readRegister 0x04 = BitVec.ofNat 32 (0x01201800 + s.params.log2nw) ∧ t.params = s.params ∧ t.inputs = rest

/-! ## NOP and the setters (44_commands.md R232 to R235) -/

/-- R232 to R235: NOP changes nothing but the completion's own fields, and each setter writes its register besides, whatever
the immediate. The field `delay` is the model's (log entry 4). -/
def Obligations.NopAndSettersComplete : Prop :=
  ∀ (s : State) (imm : Half),
    let base : State := { s with ovf := false, done := true, cmdcnt := s.cmdcnt + 1#32, pending := none, delay := 0 }
    exec .nop s = .next base ∧
    exec (.setsrc imm) s = .next { base with src := imm } ∧
    exec (.setdst imm) s = .next { base with dst := imm } ∧
    exec (.setstr imm) s = .next { base with stride := imm }

/-! ## Commands that transfer data (44_commands.md R236 to R248) -/

/-- R237: FDCT gathers at SRC + i·STRIDE, applies C2_N, then PermFwd unless RAW, and writes N contiguous words at DST. -/
def Obligations.FdctWritesTheForwardDct : Prop :=
  ∀ (s : State) (sz : BitVec 3) (fam : Family) (raw : Bool), sizeOk sz = true →
    (∀ i < size sz, s.src.toNat + i * s.stride.toNat < s.nw ∧ s.dst.toNat + i < s.nw) →
    let x := (List.range (size sz)).map (fun i => s.readWord (s.src.toNat + i * s.stride.toNat))
    let v := c2 fam (level sz) x
    let y := if raw then v.vec else permFwd (permC2 (level sz)) v.vec
    ∃ t, exec (.fdct sz fam raw) s = .next t ∧ (∀ i < size sz, t.readWord (s.dst.toNat + i) = elt y i) ∧
      s.CompletedTo t v.ovf ∧ s.AddressRegsKept t

/-- R238: IDCT gathers N contiguous words, applies PermInv unless RAW, then iC2_N, and writes at DST + i·STRIDE; where two
elements have one address, the later wins (R245). -/
def Obligations.IdctWritesTheInverseDct : Prop :=
  ∀ (s : State) (sz : BitVec 3) (fam : Family) (raw : Bool), sizeOk sz = true →
    (∀ i < size sz, s.src.toNat + i < s.nw ∧ s.dst.toNat + i * s.stride.toNat < s.nw) →
    let x := (List.range (size sz)).map (fun i => s.readWord (s.src.toNat + i))
    let y := ic2 fam (level sz) (if raw then x else permInv (permC2 (level sz)) x)
    ∃ t, exec (.idct sz fam raw) s = .next t ∧
      (∀ i < size sz, (s.stride ≠ 0#16 ∨ i = size sz - 1) → t.readWord (s.dst.toNat + i * s.stride.toNat) = elt y.vec i) ∧
      s.CompletedTo t y.ovf ∧ s.AddressRegsKept t

/-- R239: FDST, as FDCT with S4_N and its table. -/
def Obligations.FdstWritesTheForwardDst : Prop :=
  ∀ (s : State) (sz : BitVec 3) (fam : Family) (raw : Bool), sizeOk sz = true →
    (∀ i < size sz, s.src.toNat + i * s.stride.toNat < s.nw ∧ s.dst.toNat + i < s.nw) →
    let x := (List.range (size sz)).map (fun i => s.readWord (s.src.toNat + i * s.stride.toNat))
    let v := s4 fam (level sz) x
    let y := if raw then v.vec else permFwd (permS4 (level sz)) v.vec
    ∃ t, exec (.fdst sz fam raw) s = .next t ∧ (∀ i < size sz, t.readWord (s.dst.toNat + i) = elt y i) ∧
      s.CompletedTo t v.ovf ∧ s.AddressRegsKept t

/-- R240: IDST, as IDCT with iS4_N and its table. -/
def Obligations.IdstWritesTheInverseDst : Prop :=
  ∀ (s : State) (sz : BitVec 3) (fam : Family) (raw : Bool), sizeOk sz = true →
    (∀ i < size sz, s.src.toNat + i < s.nw ∧ s.dst.toNat + i * s.stride.toNat < s.nw) →
    let x := (List.range (size sz)).map (fun i => s.readWord (s.src.toNat + i))
    let y := is4 fam (level sz) (if raw then x else permInv (permS4 (level sz)) x)
    ∃ t, exec (.idst sz fam raw) s = .next t ∧
      (∀ i < size sz, (s.stride ≠ 0#16 ∨ i = size sz - 1) → t.readWord (s.dst.toNat + i * s.stride.toNat) = elt y.vec i) ∧
      s.CompletedTo t y.ovf ∧ s.AddressRegsKept t

/-- R241, R242: the identity commands copy N words, FIDT from a strided source, IIDT to a strided destination; OVF is
unchanged. -/
def Obligations.IdentityCommandsCopy : Prop :=
  ∀ (s : State) (sz : BitVec 3), sizeOk sz = true →
    ((∀ i < size sz, s.src.toNat + i * s.stride.toNat < s.nw ∧ s.dst.toNat + i < s.nw) →
      ∃ t, exec (.fidt sz) s = .next t ∧
        (∀ i < size sz, t.readWord (s.dst.toNat + i) = s.readWord (s.src.toNat + i * s.stride.toNat)) ∧
        s.CompletedTo t false ∧ s.AddressRegsKept t) ∧
    ((∀ i < size sz, s.src.toNat + i < s.nw ∧ s.dst.toNat + i * s.stride.toNat < s.nw) →
      ∃ t, exec (.iidt sz) s = .next t ∧
        (∀ i < size sz, (s.stride ≠ 0#16 ∨ i = size sz - 1) →
          t.readWord (s.dst.toNat + i * s.stride.toNat) = s.readWord (s.src.toNat + i)) ∧
        s.CompletedTo t false ∧ s.AddressRegsKept t)

/-- R243, R244, R195, R196: PERMF sends the word of slot k to DST + P[k], PERMI the word of frequency P[k] to DST + k, with P
the table TBL selects; OVF is unchanged. -/
def Obligations.PermutationCommandsReorder : Prop :=
  ∀ (s : State) (sz : BitVec 3) (tbl : Table), sizeOk sz = true →
    (∀ i < size sz, s.src.toNat + i < s.nw ∧ s.dst.toNat + i < s.nw) →
    let p := permTable tbl (level sz)
    (∃ t, exec (.permf sz tbl) s = .next t ∧
      (∀ k < size sz, t.readWord (s.dst.toNat + nth p k) = s.readWord (s.src.toNat + k)) ∧
      s.CompletedTo t false ∧ s.AddressRegsKept t) ∧
    (∃ t, exec (.permi sz tbl) s = .next t ∧
      (∀ k < size sz, t.readWord (s.dst.toNat + k) = s.readWord (s.src.toNat + nth p k)) ∧
      s.CompletedTo t false ∧ s.AddressRegsKept t)

/-- R283, R290: a transfer command with an address at or above NW completes with RANGE and changes nothing else. The field
`delay` is the model's (log entry 4). -/
def Obligations.RangeErrorChangesNothingElse : Prop :=
  ∀ (s : State) (i : Instr) (m : Mode) (sz : BitVec 3), i.transferShape = some (m, sz) → i.WellFormed →
    (∃ k < size sz, s.nw ≤ s.gatherAddr m k ∨ s.nw ≤ s.scatterAddr m k) →
    exec i s = .next { s with
      err := true
      ecode := if s.err then s.ecode else .range
      ovf := false
      done := true
      cmdcnt := s.cmdcnt + 1#32
      pending := none
      delay := 0 }

/-- R236, R283, R288: SRC = NW − 1 with a contiguous gather of any size (IDCT, IDST, IIDT, PERMF, PERMI) raises RANGE and
writes nothing, for there is no wrap-around. -/
def Obligations.LastWordSourceRaisesRange : Prop :=
  ∀ (s : State) (i : Instr) (m : Mode) (sz : BitVec 3), i.transferShape = some (m, sz) → (m = .inv ∨ m = .perm) →
    i.WellFormed → s.src.toNat = s.nw - 1 →
    ∃ t, exec i s = .next t ∧ t.err = true ∧ (s.err = false → t.ecode = .range) ∧ (s.err = true → t.ecode = s.ecode) ∧
      t.dmem = s.dmem

/-- The frame of the eight transfer commands: every byte outside the words of the scatter list reads as before, a command
with an address out of range stores nothing, no register but the completion's own changes, and the vector buffer changes in
its first N elements only. What V holds is the model's (log entry 7). -/
def Obligations.TransferFrame : Prop :=
  ∀ (s t : State) (i : Instr) (m : Mode) (sz : BitVec 3), i.transferShape = some (m, sz) → exec i s = .next t →
    (∀ a, (∀ k < size sz, a / 4 ≠ s.scatterAddr m k) → t.readByte a = s.readByte a) ∧
    ((∃ k < size sz, s.nw ≤ s.gatherAddr m k ∨ s.nw ≤ s.scatterAddr m k) → ∀ a, t.readByte a = s.readByte a) ∧
    (∀ k (h : k < 64), size sz ≤ k → t.vbuf[k] = s.vbuf[k]) ∧
    s.AddressRegsKept t ∧ s.OutsideKept t ∧ t.ctrl = s.ctrl ∧ t.lastCmd = s.lastCmd ∧
    (i.WellFormed → (∀ k < size sz, s.gatherAddr m k < s.nw ∧ s.scatterAddr m k < s.nw) → t.err = s.err ∧ t.ecode = s.ecode)

/-- The frame of NOP and the setters: no byte of DMEM, no flag but DONE and BUSY, no vector buffer element and no register
but the setter's own and CMDCNT changes. What V holds is the model's (log entry 7). -/
def Obligations.SetterFrame : Prop :=
  ∀ (s t : State) (i : Instr), i.transferShape = none → exec i s = .next t →
    (∀ a, t.readByte a = s.readByte a) ∧ t.vbuf = s.vbuf ∧ t.err = s.err ∧ t.ecode = s.ecode ∧ t.ovfFlag = s.ovfFlag ∧
    t.ctrl = s.ctrl ∧ t.lastCmd = s.lastCmd ∧ s.OutsideKept t ∧
    ((∀ imm, i ≠ .setsrc imm) → t.src = s.src) ∧
    ((∀ imm, i ≠ .setdst imm) → t.dst = s.dst) ∧
    ((∀ imm, i ≠ .setstr imm) → t.stride = s.stride)

/-- R286: OVF is never set by NOP, the setters, the identity or the permutations, and a computing command only adds to it. -/
def Obligations.OnlyComputingCommandsSetOverflow : Prop :=
  ∀ (s : State) (i : Instr), ∃ t, exec i s = .next t ∧
    (i.computes = false → t.ovfFlag = s.ovfFlag) ∧ (s.ovfFlag = true → t.ovfFlag = true)

/-- R291, R289: errors are precise: an engine step that raises ERR leaves DMEM, the address registers, CTRL, LASTCMD, OVF and
the vector buffer as they were. What V holds is the model's (log entry 7). -/
def Obligations.CommandErrorsArePrecise : Prop :=
  ∀ (s t : State) (c : Word), s.pending = some c → s.engineTurn → s.err = false → step s = .next t → t.err = true →
    t.dmem = s.dmem ∧ (∀ a, t.readByte a = s.readByte a) ∧ s.AddressRegsKept t ∧ t.ctrl = s.ctrl ∧ t.lastCmd = s.lastCmd ∧
      t.ovfFlag = s.ovfFlag ∧ t.vbuf = s.vbuf ∧ t.ovf = false ∧ (t.ecode = .illegal ∨ t.ecode = .range)

/-- R288: the first error is kept: while ERR is 1, a step leaves ECODE unchanged or clears ERR and ECODE together. -/
def Obligations.FirstErrorIsKept : Prop :=
  ∀ s t : State, s.err = true → step s = .next t →
    (t.err = true ∧ t.ecode = s.ecode) ∨ (t.err = false ∧ t.ecode = ErrCode.none)

/-- R48, R179, R176: no command reads STATUS, CTRL, CMDCNT or LASTCMD: what a command does to DMEM, the address registers and
the overflow indicator is the same in two states that agree on DMEM, the address registers and NW. -/
def Obligations.CommandsIgnoreStatusAndControl : Prop :=
  ∀ (i : Instr) (s s' : State), s.params = s'.params → s.dmem = s'.dmem → s.epoch = s'.epoch → s.src = s'.src →
    s.dst = s'.dst → s.stride = s'.stride →
    ∃ t t', exec i s = .next t ∧ exec i s' = .next t' ∧ t.dmem = t'.dmem ∧ t.src = t'.src ∧ t.dst = t'.dst ∧
      t.stride = t'.stride ∧ t.ovf = t'.ovf

/-- R47, R321: the vector buffer is unobservable: whatever it holds before a step, the step leaves the rest of the state the
same. So no statement rests on the words it holds after reset (log entry 6). -/
def Obligations.VectorBufferIsUnobservable : Prop :=
  ∀ (s t : State) (v : Vector Word 64), step s = .next t → ∃ w, step { s with vbuf := v } = .next { t with vbuf := w }

/-! ## Rotation primitives (40_primitives.md) -/

/-- R11, R12: a store holds the value modulo 2^32, and records exactly the values outside the word range. -/
def Obligations.StoreWrapsAndRecords : Prop :=
  ∀ e : Int, (store e).val.toInt % 4294967296 = e % 4294967296 ∧
    ((store e).ovf = false ↔ -2147483648 ≤ e ∧ e < 2147483648) ∧
    ((store e).ovf = false → (store e).val.toInt = e)

/-- R124: mulr is the floor of (v·m + 2^23) / 2^24, so v·m / 2^24 to the nearest integer with ties upward; the sum stays below
2^55 and the result below 2^31 in magnitude; mulr(−v, m) is −mulr(v, m) exactly away from ties. -/
def Obligations.MultiplyRoundsToNearest : Prop :=
  (∀ (v : Word) (m : Nat), m < 16777216 →
    mulr v m = (v.toInt * m + 8388608) / 16777216 ∧
    (2 * 16777216 * mulr v m ≤ 2 * (v.toInt * m) + 16777216 ∧
      2 * (v.toInt * m) < 2 * 16777216 * mulr v m + 16777216) ∧
    |mulr v m| < 2147483648 ∧
    |v.toInt * m + 8388608| < 2 ^ 55 ∧
    (v ≠ 0x80000000#32 → (mulr (-v) m = -mulr v m ↔ (v.toInt * m) % 16777216 ≠ 8388608))) ∧
  mulr 1#32 8388608 = 1 ∧ mulr (-1#32) 8388608 = 0

/-- R130: the precise rotation and its inverse undo each other for every angle index and every pair of words, wrap or not. -/
def Obligations.PreciseRotationIsInvertible : Prop :=
  ∀ (k : Nat) (a b : Word),
    (let r := reflP k a b
     (ireflP k r.p r.q).p = a ∧ (ireflP k r.p r.q).q = b) ∧
    (let r := ireflP k a b
     (reflP k r.p r.q).p = a ∧ (reflP k r.p r.q).q = b)

/-- R134, R135, R128: the flattened matrix is its own inverse as a rational matrix, for every entry of the ROM; and for k = 1
to 64 its entries A_k, B_k and C_k are those R134 lists, which fixes T_k and S_k of every ROM entry. -/
def Obligations.FlattenedMatrixIsAnInvolution : Prop :=
  (∀ k : Nat, flatA k * flatA k + flatB k * flatC k = 2 ^ 144) ∧
  (List.range 64).map (fun k => (flatA (k + 1), flatB (k + 1), flatC (k + 1))) =
    [ (4722010897787813625856, 57950701084839230790, 57950631155143278592),
      (4720944194362542129152, 115892814506337220044, 115892536586008526848),
      (4719166533274496401408, 173817189727090385204, 173817272043294425088),
      (4716678179010446884864, 231715801736868081780, 231715548852769521664),
      (4713479525954188476416, 289578938068343132160, 289578922765132496896),
      (4709571031331548168192, 347398573128163793063, 347398949531082031104),
      (4704953296758543220736, 405166119324035980848, 405166340476386672640),
      (4699626987490258190336, 462872986924187940624, 462872932826721812480),
      (4693592969307827994624, 520509467750171842720, 520509719382832709632),
      (4686852093513130049536, 578068093803739209762, 578067974420441333760),
      (4679405404377868926976, 635539156356040688126, 635539535165223075840),
      (4671253985241677692928, 692915185317801535068, 692915112942946484224),
      (4662399125914038304768, 750186475793023165356, 750186263504310239232),
      (4652842125583886319616, 807344437575911485719, 807344824074989731840),
      (4642584380890515767296, 864381595016085257772, 864381505980753510400),
      (4631627523346527158272, 921288248527030814976, 921287864972300255232) ] ++
    [ (4619973171386379141120, 978055806806627379968, 978055738275305357312),
      (4607623044283701919744, 1034676233211837842220, 1034676400165490786304),
      (4594579028271396028416, 1091140938884637562880, 1091141124918578511872),
      (4580843091744348176384, 1147441332511940439360, 1147441468285267214336),
      (4566417314480845225984, 1203568823532815685760, 1203568986016255574016),
      (4551303775919804514304, 1259515360081944295750, 1259515515337218981888),
      (4535504926547636125696, 1315271818513665255100, 1315272049048902696960),
      (4519022948484735041536, 1370830680679175182455, 1370830705851958820864),
      (4501860487107457318912, 1426182821842341103173, 1426182760022109323264),
      (4484020061071531311104, 1481320186166685544350, 1481320048785029595136),
      (4465504382563794288640, 1536234179787403082311, 1536234409366395027456),
      (4446316140130325233664, 1590917281121941981830, 1590917397516904300544),
      (4426458318907612594176, 1645360901756959331977, 1645360568987256094720),
      (4405933875629475758080, 1699556432112099212603, 1699556323953079222272),
      (4384745988965441470464, 1753495828787604284080, 1753495936690095652864),
      (4362897689743068233728, 1807171538817075304144, 1807171525898957488128) ] ++
    [ (4340392384595174096896, 1860574972114450518390, 1860574928805340119040),
      (4317233497659504852992, 1913698064401396283952, 1913697982634918936576),
      (4293424334648287166464, 1966533238437570654255, 1966533087563322753024),
      (4268968729009398480896, 2019071927308660934400, 2019071799341250248704),
      (4243870219359649529856, 2071306550807634333545, 2071306518144330235904),
      (4218132514604526338048, 2123229532814518868352, 2123229362673214816256),
      (4191759567238400573440, 2174832790201434917548, 2174832451628556091392),
      (4164755388786379063296, 2226108229188071427788, 2226108185185982873600),
      (4137124125169219010560, 2277048292066547413036, 2277048400571170553856),
      (4108869692397491060736, 2327645854578324690805, 2327645779434724655104),
      (4079996466882429321216, 2377892819367905991680, 2377892721952273989632),
      (4050508816247211163648, 2427781584360538080579, 2427781628299447369728),
      (4020411315517206298624, 2477304571282604731960, 2477304617176896897024),
      (3989708201582944845824, 2526454590941462237940, 2526454933185181515776),
      (3958404230158751891456, 2575224556857138117888, 2575224413549976616960),
      (3926504185806318469120, 2623606319988445923238, 2623606302871841144832) ] ++
    [ (3894012929019001962496, 2671592755191327887280, 2671593001326403911680),
      (3860935205456424468480, 2719177170011281691942, 2719177190564270440448),
      (3827275865598780768256, 2766352340009755379015, 2766352115185999675392),
      (3793040236318233198592, 2813110642333182190592, 2813110456842197139456),
      (3758233532794977386496, 2859444892502576034010, 2859445178658445066240),
      (3722860860188873719808, 2905348832026238389479, 2905348962285348978688),
      (3686927234778974388224, 2950815604643895360180, 2950815615273421242368),
      (3650438648954737393664, 2995837643233517384640, 2995837537798290669568),
      (3613400218793276342272, 3040408531818081277872, 3040408537410469625856),
      (3575817672960994443264, 3084521514937002649960, 3084521577235540344832),
      (3537696494806349381632, 3128170187559658282299, 3128170183349038481408),
      (3499042788024889901056, 3171347336692712925592, 3171347600351522979840),
      (3459861947203501162496, 3214047388238963570760, 3214047354318529495040),
      (3420160155543079485440, 3256263049324027348116, 3256263252800570392576),
      (3379943202164561674240, 3297988763587067455879, 3297988540398204616704),
      (3339217467776639696896, 3339217211450562479700, 3339217306136921243648) ]

/-- R133: for |a|, |b| < 2^30 the flattened outputs never wrap. -/
def Obligations.FlattenedRotationDoesNotWrap : Prop :=
  ∀ (k : Nat) (a b : Word), 1 ≤ k → k ≤ 64 → |a.toInt| < 1073741824 → |b.toInt| < 1073741824 → (reflF k a b).ovf = false

/-- R139: equal inputs of at most 32768 in magnitude into the butterfly give 0 as the second output and no wrap, in both
families. -/
def Obligations.ButterflyOfEqualInputs : Prop :=
  ∀ (fam : Family) (c : Word), |c.toInt| ≤ 32768 → (reflect fam 64 c c).q = 0#32 ∧ (reflect fam 64 c c).ovf = false

/-! ## Composers and permutation (41_composers.md, 42_permutation.md) -/

/-- R152 to R158: at every size 2^n, the command sizes among them, C2, S4, iC2 and iS4 meet the spec's loops, with the post
butterfly of index j on U at slot σ(j) and V at slot σ(h−j), and at size 1 they are the identity. R159 to R162, R158, R182:
the composers of sizes 2 and 4 and their inverses are the unrolled listings, the inverses read backwards, with ovf the OR
over every rotation and negation of the listing, a double negation's two included; and R126, R127, R133, R135, R12: each
rotation has the rule's words and leaves ovf clear exactly when none of its stores wraps, and a negation wraps exactly at
−2^31. -/
def Obligations.SmallComposersAreTheListings : Prop :=
  let isWord : Int → Prop := fun e => -2147483648 ≤ e ∧ e < 2147483648
  (∀ (k : Nat) (a b : Word),
    (let e₁ := a.toInt + mulr b (romT k)
     let a₁ := BitVec.ofInt 32 e₁
     let e₂ := b.toInt - mulr a₁ (romS k)
     let b₁ := BitVec.ofInt 32 e₂
     let e₃ := a₁.toInt + mulr b₁ (romT k)
     let r := reflP k a b
     r.p = BitVec.ofInt 32 e₃ ∧ r.q = -b₁ ∧ (r.ovf = false ↔ isWord e₁ ∧ isWord e₂ ∧ isWord e₃ ∧ b₁ ≠ 0x80000000#32)) ∧
    (let b₁ := -b
     let e₁ := a.toInt - mulr b₁ (romT k)
     let a₁ := BitVec.ofInt 32 e₁
     let e₂ := b₁.toInt + mulr a₁ (romS k)
     let e₃ := a₁.toInt - mulr (BitVec.ofInt 32 e₂) (romT k)
     let r := ireflP k a b
     r.p = BitVec.ofInt 32 e₃ ∧ r.q = BitVec.ofInt 32 e₂ ∧
       (r.ovf = false ↔ b ≠ 0x80000000#32 ∧ isWord e₁ ∧ isWord e₂ ∧ isWord e₃)) ∧
    (let t := (romT k : Int)
     let u := (romS k : Int)
     let e₁ := ((2 ^ 48 - t * u) * 2 ^ 24 * a.toInt + t * (2 ^ 49 - t * u) * b.toInt + 2 ^ 71) / 2 ^ 72
     let e₂ := (u * 2 ^ 48 * a.toInt - (2 ^ 48 - t * u) * 2 ^ 24 * b.toInt + 2 ^ 71) / 2 ^ 72
     let r := reflF k a b
     r.p = BitVec.ofInt 32 e₁ ∧ r.q = BitVec.ofInt 32 e₂ ∧ (r.ovf = false ↔ isWord e₁ ∧ isWord e₂) ∧
       ireflF k a b = r)) ∧
  (∀ x : Word, negate x = ⟨-x, decide (x = 0x80000000#32)⟩) ∧
  (∀ (fam : Family) (n : Nat) (x : List Word), x.length = 2 ^ (n + 1) →
    DctLoop fam n x ∧ DstLoop fam n x ∧ InverseDctLoop fam n x ∧ ∃ u v : List Word, InverseDstLoop fam n x u v) ∧
  (∀ (fam : Family) (x : List Word), x.length = 1 →
    c2 fam 0 x = ⟨x, false⟩ ∧ s4 fam 0 x = ⟨x, false⟩ ∧ ic2 fam 0 x = ⟨x, false⟩ ∧ is4 fam 0 x = ⟨x, false⟩) ∧
  ∀ (fam : Family) (x0 x1 x2 x3 : Word),
    (let r := reflect fam 64 x0 x1
     c2 fam 1 [x0, x1] = ⟨[r.p, r.q], r.ovf⟩) ∧
    (let r := reflect fam 32 x1 x0
     let t := negate r.q
     s4 fam 1 [x0, x1] = ⟨[r.p, t.val], r.ovf || t.ovf⟩) ∧
    (let r := ireflect fam 64 x0 x1
     ic2 fam 1 [x0, x1] = ⟨[r.p, r.q], r.ovf⟩) ∧
    (let t := negate x1
     let r := ireflect fam 32 x0 t.val
     is4 fam 1 [x0, x1] = ⟨[r.q, r.p], t.ovf || r.ovf⟩) ∧
    (let r1 := reflect fam 64 x0 x3
     let r3 := reflect fam 64 x1 x2
     let r5 := reflect fam 64 r1.p r3.p
     let r7 := reflect fam 32 r1.q r3.q
     let t9 := negate r7.q
     let t10 := negate t9.val
     c2 fam 2 [x0, x1, x2, x3] =
       ⟨[r5.p, r5.q, r7.p, t10.val], r1.ovf || r3.ovf || r5.ovf || r7.ovf || t9.ovf || t10.ovf⟩) ∧
    (let r1 := reflect fam 16 x3 x0
     let r3 := reflect fam 48 x2 x1
     let t5 := negate r3.q
     let r6 := reflect fam 64 r1.p r3.p
     let r8 := reflect fam 64 r1.q t5.val
     let r10 := reflect fam 64 r6.q r8.q
     let t12 := negate r10.p
     let t13 := negate r8.p
     s4 fam 2 [x0, x1, x2, x3] =
       ⟨[r6.p, t12.val, t13.val, r10.q],
        r1.ovf || r3.ovf || t5.ovf || r6.ovf || r8.ovf || r10.ovf || t12.ovf || t13.ovf⟩) ∧
    (let t9 := negate x3
     let t8 := negate t9.val
     let r7 := ireflect fam 32 x2 t8.val
     let r5 := ireflect fam 64 x0 x1
     let r3 := ireflect fam 64 r5.q r7.q
     let r1 := ireflect fam 64 r5.p r7.p
     ic2 fam 2 [x0, x1, x2, x3] =
       ⟨[r1.p, r3.p, r3.q, r1.q], t9.ovf || t8.ovf || r7.ovf || r5.ovf || r3.ovf || r1.ovf⟩) ∧
    (let t8 := negate x2
     let t10 := negate x1
     let r10 := ireflect fam 64 t10.val x3
     let r8 := ireflect fam 64 t8.val r10.q
     let r6 := ireflect fam 64 x0 r10.p
     let t4 := negate r8.q
     let r3 := ireflect fam 48 r6.q t4.val
     let r1 := ireflect fam 16 r6.p r8.p
     is4 fam 2 [x0, x1, x2, x3] =
       ⟨[r1.q, r3.q, r3.p, r1.p],
        t8.ovf || t10.ovf || r10.ovf || r8.ovf || r6.ovf || t4.ovf || r3.ovf || r1.ovf⟩)

/-- R173: the precise composers and their inverses undo each other on every vector of every size 2^n, the sizes up to 64 of the
commands among them, wrap or not, and so do, through the permutation, the vector functions of the commands with one RAW
bit. -/
def Obligations.PreciseComposersRoundTrip : Prop :=
  (∀ (n : Nat) (x : List Word), x.length = 2 ^ n →
    (ic2 .precise n (c2 .precise n x).vec).vec = x ∧ (is4 .precise n (s4 .precise n x).vec).vec = x ∧
    (c2 .precise n (ic2 .precise n x).vec).vec = x ∧ (s4 .precise n (is4 .precise n x).vec).vec = x) ∧
  (∀ (sz : BitVec 3) (raw : Bool) (x : List Word), sizeOk sz = true → x.length = size sz →
    (idctVec sz .precise raw (fdctVec sz .precise raw x).vec).vec = x ∧
    (idstVec sz .precise raw (fdstVec sz .precise raw x).vec).vec = x)

/-- R173, R237 to R240: a precise forward command followed by the matching inverse command, with the same size and RAW bit
and reading the first one's output, writes the original words back, through memory and whatever wrapped between. With stride
0 on the inverse the last word alone survives (R245). -/
def Obligations.PreciseCommandsRoundTrip : Prop :=
  ∀ (s t u : State) (sz : BitVec 3) (raw : Bool) (fwd inv : Instr) (dst stride : Half), sizeOk sz = true →
    (fwd = .fdct sz .precise raw ∧ inv = .idct sz .precise raw ∨ fwd = .fdst sz .precise raw ∧ inv = .idst sz .precise raw) →
    (∀ i < size sz, s.src.toNat + i * s.stride.toNat < s.nw ∧ s.dst.toNat + i < s.nw ∧ dst.toNat + i * stride.toNat < s.nw) →
    exec fwd s = .next t →
    exec inv { t with src := s.dst, dst := dst, stride := stride } = .next u →
    ∀ i < size sz, (stride ≠ 0#16 ∨ i = size sz - 1) →
      u.readWord (dst.toNat + i * stride.toNat) = s.readWord (s.src.toNat + i * s.stride.toNat)

/-- R177: every composer of every size maps the zero vector to the zero vector without setting ovf, in both families. -/
def Obligations.ZeroVectorIsPreserved : Prop :=
  ∀ (fam : Family) (n : Nat),
    c2 fam n (List.replicate (2 ^ n) 0#32) = ⟨List.replicate (2 ^ n) 0#32, false⟩ ∧
    s4 fam n (List.replicate (2 ^ n) 0#32) = ⟨List.replicate (2 ^ n) 0#32, false⟩ ∧
    ic2 fam n (List.replicate (2 ^ n) 0#32) = ⟨List.replicate (2 ^ n) 0#32, false⟩ ∧
    is4 fam n (List.replicate (2 ^ n) 0#32) = ⟨List.replicate (2 ^ n) 0#32, false⟩

/-- R178: FDCT without RAW of a constant vector c, −32768 ≤ c ≤ 32767, has zeros at every index but 0, and does not set ovf, for
every size and both families. -/
def Obligations.ConstantVectorIsIsolated : Prop :=
  ∀ (sz : BitVec 3) (fam : Family) (c : Word), sizeOk sz = true → -32768 ≤ c.toInt → c.toInt ≤ 32767 →
    (fdctVec sz fam false (List.replicate (size sz) c)).ovf = false ∧
    (fdctVec sz fam false (List.replicate (size sz) c)).vec.length = size sz ∧
    ∀ i < size sz, i ≠ 0 → elt (fdctVec sz fam false (List.replicate (size sz) c)).vec i = 0#32

/-- R181: with every input word below 2^27 in magnitude no store of any composer wraps, for every size and both families. -/
def Obligations.GuardBitsSuffice : Prop :=
  ∀ (fam : Family) (n : Nat) (x : List Word), n ≤ 6 → x.length = 2 ^ n → (∀ w ∈ x, |w.toInt| < 134217728) →
    (c2 fam n x).ovf = false ∧ (s4 fam n x).ovf = false ∧ (ic2 fam n x).ovf = false ∧ (is4 fam n x).ovf = false

/-- R192: permS4_h[i] is odd exactly at 1 ≤ i ≤ h/2, for every h ≥ 2, and permS4_1[0] is 0. -/
def Obligations.OddSlotsAreTheFirstHalf : Prop :=
  (∀ n i : Nat, i < 2 ^ (n + 1) → (nth (permS4 (n + 1)) i % 2 = 1 ↔ 1 ≤ i ∧ i ≤ 2 ^ n)) ∧ nth (permS4 0) 0 = 0

/-- R194, R193, R197: every table starts with frequency 0, so σ(0) = 0, and is a rearrangement of 0 .. N − 1, with `slotOf`
its inverse on index sets; permC2's first half is the even numbers and its second the odd ones, permS4's first half is 0 and
odd numbers below N − 1, and its second N − 1 and even numbers from 2. For every size from 1 to 64 each table and its inverse
column are R194's. -/
def Obligations.TablesAreBijections : Prop :=
  (permC2 0 =
      [0] ∧
    (List.range 1).map (slotOf (permC2 0)) =
      [0]) ∧
  (permS4 0 =
      [0] ∧
    (List.range 1).map (slotOf (permS4 0)) =
      [0]) ∧
  (permC2 1 =
      [0, 1] ∧
    (List.range 2).map (slotOf (permC2 1)) =
      [0, 1]) ∧
  (permS4 1 =
      [0, 1] ∧
    (List.range 2).map (slotOf (permS4 1)) =
      [0, 1]) ∧
  (permC2 2 =
      [0, 2, 1, 3] ∧
    (List.range 4).map (slotOf (permC2 2)) =
      [0, 2, 1, 3]) ∧
  (permS4 2 =
      [0, 1, 3, 2] ∧
    (List.range 4).map (slotOf (permS4 2)) =
      [0, 1, 3, 2]) ∧
  (permC2 3 =
      [0, 4, 2, 6, 1, 3, 7, 5] ∧
    (List.range 8).map (slotOf (permC2 3)) =
      [0, 4, 2, 5, 1, 7, 3, 6]) ∧
  (permS4 3 =
      [0, 3, 1, 5, 7, 4, 6, 2] ∧
    (List.range 8).map (slotOf (permS4 3)) =
      [0, 2, 7, 1, 5, 3, 6, 4]) ∧
  (permC2 4 =
      [0, 8, 4, 12, 2, 6, 14, 10, 1, 7, 3, 11, 15, 9, 13, 5] ∧
    (List.range 16).map (slotOf (permC2 4)) =
      [0, 8, 4, 10, 2, 15, 5, 9, 1, 13, 7, 11, 3, 14, 6, 12]) ∧
  (permS4 4 =
      [0, 7, 3, 11, 1, 5, 13, 9, 15, 8, 12, 4, 14, 10, 2, 6] ∧
    (List.range 16).map (slotOf (permS4 4)) =
      [0, 4, 14, 2, 11, 5, 15, 1, 9, 7, 13, 3, 10, 6, 12, 8]) ∧
  (permC2 5 =
      [0, 16, 8, 24, 4, 12, 28, 20, 2, 14, 6, 22, 30, 18, 26, 10, 1, 15, 7, 23, 3, 11, 27, 19, 31, 17, 25, 9,
        29, 21, 5, 13] ∧
    (List.range 32).map (slotOf (permC2 5)) =
      [0, 16, 8, 20, 4, 30, 10, 18, 2, 27, 15, 21, 5, 31, 9, 17, 1, 25, 13, 23, 7, 29, 11, 19, 3, 26, 14, 22,
        6, 28, 12, 24]) ∧
  (permS4 5 =
      [0, 15, 7, 23, 3, 11, 27, 19, 1, 13, 5, 21, 29, 17, 25, 9, 31, 16, 24, 8, 28, 20, 4, 12, 30, 18, 26, 10,
        2, 14, 6, 22] ∧
    (List.range 32).map (slotOf (permS4 5)) =
      [0, 8, 28, 4, 22, 10, 30, 2, 19, 15, 27, 5, 23, 9, 29, 1, 17, 13, 25, 7, 21, 11, 31, 3, 18, 14, 26, 6,
        20, 12, 24, 16]) ∧
  (permC2 6 =
      [0, 32, 16, 48, 8, 24, 56, 40, 4, 28, 12, 44, 60, 36, 52, 20, 2, 30, 14, 46, 6, 22, 54, 38, 62, 34, 50,
        18, 58, 42, 10, 26, 1, 31, 15, 47, 7, 23, 55, 39, 3, 27, 11, 43, 59, 35, 51, 19, 63, 33, 49, 17, 57,
        41, 9, 25, 61, 37, 53, 21, 5, 29, 13, 45] ∧
    (List.range 64).map (slotOf (permC2 6)) =
      [0, 32, 16, 40, 8, 60, 20, 36, 4, 54, 30, 42, 10, 62, 18, 34, 2, 51, 27, 47, 15, 59, 21, 37, 5, 55, 31,
        41, 9, 61, 17, 33, 1, 49, 25, 45, 13, 57, 23, 39, 7, 53, 29, 43, 11, 63, 19, 35, 3, 50, 26, 46, 14,
        58, 22, 38, 6, 52, 28, 44, 12, 56, 24, 48]) ∧
  (permS4 6 =
      [0, 31, 15, 47, 7, 23, 55, 39, 3, 27, 11, 43, 59, 35, 51, 19, 1, 29, 13, 45, 5, 21, 53, 37, 61, 33, 49,
        17, 57, 41, 9, 25, 63, 32, 48, 16, 56, 40, 8, 24, 60, 36, 52, 20, 4, 28, 12, 44, 62, 34, 50, 18, 58,
        42, 10, 26, 2, 30, 14, 46, 6, 22, 54, 38] ∧
    (List.range 64).map (slotOf (permS4 6)) =
      [0, 16, 56, 8, 44, 20, 60, 4, 38, 30, 54, 10, 46, 18, 58, 2, 35, 27, 51, 15, 43, 21, 61, 5, 39, 31, 55,
        9, 45, 17, 57, 1, 33, 25, 49, 13, 41, 23, 63, 7, 37, 29, 53, 11, 47, 19, 59, 3, 34, 26, 50, 14, 42,
        22, 62, 6, 36, 28, 52, 12, 40, 24, 48, 32]) ∧
  ∀ (tbl : Table) (n : Nat),
    nth (permTable tbl n) 0 = 0 ∧ sigma n 0 = 0 ∧ (permTable tbl n).Perm (List.range (2 ^ n)) ∧
    (∀ f < 2 ^ n, nth (permTable tbl n) (slotOf (permTable tbl n) f) = f) ∧
    (∀ k < 2 ^ n, slotOf (permTable tbl n) (nth (permTable tbl n) k) = k) ∧
    (∀ k < 2 ^ n, nth (permC2 (n + 1)) k % 2 = 0 ∧ nth (permC2 (n + 1)) (2 ^ n + k) % 2 = 1) ∧
    (∀ k < 2 ^ n, k ≠ 0 → nth (permS4 (n + 1)) k % 2 = 1 ∧ nth (permS4 (n + 1)) k < 2 ^ (n + 1) - 1 ∧
      nth (permS4 (n + 1)) (2 ^ n + k) % 2 = 0 ∧ 2 ≤ nth (permS4 (n + 1)) (2 ^ n + k)) ∧
    nth (permS4 (n + 1)) 0 = 0 ∧ nth (permS4 (n + 1)) (2 ^ n) = 2 ^ (n + 1) - 1

/-- R195, R196: PermFwd puts the word of slot s at P[s], PermInv takes it from there, and they undo each other, for every table
and every vector; with the rules' two examples. -/
def Obligations.PermutationsUndoEachOther : Prop :=
  (∀ a b c d : Word, permFwd (permC2 2) [a, b, c, d] = [a, c, b, d] ∧ permInv (permS4 2) [a, b, c, d] = [a, b, d, c]) ∧
  ∀ (tbl : Table) (n : Nat) (x : List Word), x.length = 2 ^ n →
    (∀ k < 2 ^ n, elt (permFwd (permTable tbl n) x) (nth (permTable tbl n) k) = elt x k ∧
      elt (permInv (permTable tbl n) x) k = elt x (nth (permTable tbl n) k)) ∧
    permInv (permTable tbl n) (permFwd (permTable tbl n) x) = x ∧ permFwd (permTable tbl n) (permInv (permTable tbl n) x) = x

/-- R199: FDCT.N.R followed by PERMF.DCT.N on its output gives at the second destination the words FDCT.N writes, and likewise
for DST, in each family. -/
def Obligations.RawThenPermfIsTheTransform : Prop :=
  ∀ (s t u v : State) (sz : BitVec 3) (fam : Family) (tbl : Table) (dst : Half) (plain rawed : Instr), sizeOk sz = true →
    (tbl = .dct ∧ plain = .fdct sz fam false ∧ rawed = .fdct sz fam true ∨
      tbl = .dst ∧ plain = .fdst sz fam false ∧ rawed = .fdst sz fam true) →
    (∀ i < size sz, s.src.toNat + i * s.stride.toNat < s.nw ∧ s.dst.toNat + i < s.nw ∧ dst.toNat + i < s.nw) →
    exec rawed s = .next t → exec (.permf sz tbl) { t with src := s.dst, dst := dst } = .next u → exec plain s = .next v →
    ∀ i < size sz, u.readWord (dst.toNat + i) = v.readWord (s.dst.toNat + i)

/-- R199: PERMI.DCT.N followed by IDCT.N.R on its output writes the words IDCT.N writes, and likewise for DST, in each
family. With stride 0 the last word alone survives (R245). -/
def Obligations.PermiThenRawIsTheInverse : Prop :=
  ∀ (s t u v : State) (sz : BitVec 3) (fam : Family) (tbl : Table) (dst : Half) (plain rawed : Instr), sizeOk sz = true →
    (tbl = .dct ∧ plain = .idct sz fam false ∧ rawed = .idct sz fam true ∨
      tbl = .dst ∧ plain = .idst sz fam false ∧ rawed = .idst sz fam true) →
    (∀ i < size sz, s.src.toNat + i < s.nw ∧ s.dst.toNat + i < s.nw ∧ dst.toNat + i * s.stride.toNat < s.nw) →
    exec (.permi sz tbl) s = .next t →
    exec rawed { t with src := s.dst, dst := dst } = .next u → exec plain { s with dst := dst } = .next v →
    ∀ i < size sz, (s.stride ≠ 0#16 ∨ i = size sz - 1) →
      u.readWord (dst.toNat + i * s.stride.toNat) = v.readWord (dst.toNat + i * s.stride.toNat)

/-! ## The host port (10_state.md R34 to R45, 20_memory.md, 60_exceptions.md) -/

/-- R38: a host write of CTRL keeps bits 3:0 at any time, and the register reads back with bits 31:4 zero. The fields
`inputs` and `delay` are the model's (log entries 3 and 4). -/
def Obligations.ControlWriteKeepsFourBits : Prop :=
  ∀ (s : State) (v : Word) (rest : List Input), s.inputs = .write .bits32 0x08 v :: rest → s.hostTurn →
    ∃ t, step s = .next t ∧ (∀ i, t.ctrl.getLsbD i = (decide (i < 4) && v.getLsbD i)) ∧
      (∀ i, (t.readRegister 0x08).getLsbD i = (decide (i < 4) && v.getLsbD i)) ∧
      t = { s with inputs := rest, delay := s.delay - 1, ctrl := t.ctrl }

/-- R40: a host write of STATUS clears DONE, ERR with ECODE, and OVF where bits 1, 2 and 3 are 1, busy or not, and nothing
else. The fields `inputs` and `delay` are the model's (log entries 3 and 4). -/
def Obligations.StatusWriteClearsItsBits : Prop :=
  ∀ (s : State) (v : Word) (rest : List Input), s.inputs = .write .bits32 0x0C v :: rest → s.hostTurn →
    step s = .next { s with
      inputs := rest
      delay := s.delay - 1
      done := if v.getLsbD 1 then false else s.done
      err := if v.getLsbD 2 then false else s.err
      ecode := if v.getLsbD 2 then .none else s.ecode
      ovfFlag := if v.getLsbD 3 then false else s.ovfFlag }

/-- R39, R281, R293: STATUS reads BUSY, DONE, ERR, OVF, ECODE and IRQ in bits 0, 1, 2, 3, 7:4 and 8, and 0 above; IRQ is the
OR of the three enabled flags, and ECODE reads 0 NONE, 1 ILLEGAL, 2 RANGE, 3 OVERRUN, 4 BUS, 5 HOSTBUSY. The fields `inputs`,
`delay` and `readData` are the model's (log entries 3 and 4). -/
def Obligations.StatusReadsItsFields : Prop :=
  ∀ (s : State) (rest : List Input), s.inputs = .read .bits32 0x0C :: rest → s.hostTurn →
    ∃ t v, step s = .next t ∧ t.readData = v :: s.readData ∧
      v.getLsbD 0 = s.pending.isSome ∧ v.getLsbD 1 = s.done ∧ v.getLsbD 2 = s.err ∧ v.getLsbD 3 = s.ovfFlag ∧
      (s.ecode = .none → v.extractLsb' 4 4 = 0#4) ∧ (s.ecode = .illegal → v.extractLsb' 4 4 = 1#4) ∧
      (s.ecode = .range → v.extractLsb' 4 4 = 2#4) ∧ (s.ecode = .overrun → v.extractLsb' 4 4 = 3#4) ∧
      (s.ecode = .bus → v.extractLsb' 4 4 = 4#4) ∧ (s.ecode = .hostbusy → v.extractLsb' 4 4 = 5#4) ∧
      v.getLsbD 8 = ((s.done && s.ctrl.getLsbD 0) || (s.err && s.ctrl.getLsbD 1) || (s.ovfFlag && s.ctrl.getLsbD 2)) ∧
      (∀ i, 9 ≤ i → v.getLsbD i = false) ∧ t = { s with inputs := rest, delay := s.delay - 1, readData := v :: s.readData }

/-- R34, R36, R37, R41 to R45, R66: an aligned 32-bit read of a register offset returns the register at any time and has no
side effect; the reserved offsets, 0x24 to 0xFFFF and those above the DMEM window, return 0 (R35, R61). The fields `inputs`,
`delay` and `readData` are the model's (log entries 3 and 4). -/
def Obligations.RegisterReadsHaveNoSideEffect : Prop :=
  ∀ (s : State) (off : Nat) (rest : List Input), s.inputs = .read .bits32 off :: rest → s.hostTurn → off % 4 = 0 →
    (off < 0x10000 ∨ 0x10000 + 4 * s.nw ≤ off ∧ off < 0x20000) →
    ∃ v, step s = .next { s with inputs := rest, delay := s.delay - 1, readData := v :: s.readData } ∧
      (off = 0x00 → v = 0x54584501#32) ∧
      (off = 0x04 → v = BitVec.ofNat 32 (0x01201800 + s.params.log2nw)) ∧
      (off = 0x08 → v.toNat = s.ctrl.toNat) ∧
      (off = 0x10 → v = s.lastCmd) ∧
      (off = 0x14 → v.toNat = s.src.toNat) ∧
      (off = 0x18 → v.toNat = s.dst.toNat) ∧
      (off = 0x1C → v.toNat = s.stride.toNat) ∧
      (off = 0x20 → v = s.cmdcnt) ∧
      (0x24 ≤ off → v = 0#32)

/-- R35, R36, R37, R45, R61: an aligned 32-bit write to ID, CFG, CMDCNT, a reserved register offset or a reserved part of the
aperture has no effect and raises no error, busy or not. The fields `inputs` and `delay` are the model's (log entries 3 and
4). -/
def Obligations.ReservedWritesAreIgnored : Prop :=
  ∀ (s : State) (off : Nat) (v : Word) (rest : List Input), s.inputs = .write .bits32 off v :: rest → s.hostTurn →
    off % 4 = 0 →
    (off = 0x00 ∨ off = 0x04 ∨ off = 0x20 ∨ 0x24 ≤ off ∧ off < 0x10000 ∨ 0x10000 + 4 * s.nw ≤ off ∧ off < 0x20000) →
    step s = .next { s with inputs := rest, delay := s.delay - 1 }

/-- R42, R43, R44: a host write of an address register while idle sets its low 16 bits and nothing else. The fields `inputs`
and `delay` are the model's (log entries 3 and 4). -/
def Obligations.AddressRegisterWriteWhileIdle : Prop :=
  ∀ (s : State) (v : Word) (rest : List Input), s.pending = none →
    (s.inputs = .write .bits32 0x14 v :: rest →
      step s = .next { s with inputs := rest, delay := s.delay - 1, src := BitVec.ofNat 16 v.toNat }) ∧
    (s.inputs = .write .bits32 0x18 v :: rest →
      step s = .next { s with inputs := rest, delay := s.delay - 1, dst := BitVec.ofNat 16 v.toNat }) ∧
    (s.inputs = .write .bits32 0x1C v :: rest →
      step s = .next { s with inputs := rest, delay := s.delay - 1, stride := BitVec.ofNat 16 v.toNat })

/-- R287, R75: while busy, a host access to the DMEM window or a host write of an address register is refused with HOSTBUSY,
and a refused read returns 0. The fields `inputs`, `delay` and `readData` are the model's (log entries 3 and 4). -/
def Obligations.HostIsRefusedWhileBusy : Prop :=
  ∀ (s : State) (c v : Word) (off : Nat) (rest : List Input), s.pending = some c → s.delay ≠ 0 → off % 4 = 0 →
    let refused : State := { s with
      inputs := rest
      delay := s.delay - 1
      err := true
      ecode := if s.err then s.ecode else .hostbusy }
    (s.inputs = .write .bits32 off v :: rest →
      (off = 0x14 ∨ off = 0x18 ∨ off = 0x1C ∨ 0x10000 ≤ off ∧ off < 0x10000 + 4 * s.nw) → step s = .next refused) ∧
    (s.inputs = .read .bits32 off :: rest → 0x10000 ≤ off → off < 0x10000 + 4 * s.nw →
      step s = .next { refused with readData := 0#32 :: s.readData })

/-- R61, R69: while idle, a host write of DMEM word i changes exactly that word, and a host read of word i returns what the
engine would read there. The fields `inputs`, `delay` and `readData` are the model's (log entries 3 and 4). -/
def Obligations.DmemWindowWhileIdle : Prop :=
  ∀ (s : State) (i : Nat) (v : Word) (rest : List Input), s.pending = none → i < s.nw →
    (s.inputs = .write .bits32 (0x10000 + 4 * i) v :: rest →
      ∃ t, step s = .next t ∧ t.readWord i = v ∧ (∀ a, a / 4 ≠ i → t.readByte a = s.readByte a) ∧
        t = { s with inputs := rest, delay := s.delay - 1, dmem := t.dmem }) ∧
    (s.inputs = .read .bits32 (0x10000 + 4 * i) :: rest →
      step s = .next { s with inputs := rest, delay := s.delay - 1, readData := s.readWord i :: s.readData })

/-- R63, R285, R289: a host access inside the aperture that is not 32-bit or not aligned has no effect but the BUS error,
busy or not, and a read returns 0. The fields `inputs`, `delay` and `readData` are the model's (log entries 3 and 4). For a
wide or misaligned access that starts in the aperture and ends outside it, BUS is the model's (log entry 14). -/
def Obligations.BadAccessIsABusError : Prop :=
  ∀ (s : State) (w : Width) (off : Nat) (v : Word) (rest : List Input), s.hostTurn → off < 0x20000 →
    (w ≠ .bits32 ∨ off % 4 ≠ 0) →
    let bus : State := { s with
      inputs := rest
      delay := s.delay - 1
      err := true
      ecode := if s.err then s.ecode else .bus }
    (s.inputs = .write w off v :: rest → step s = .next bus) ∧
    (s.inputs = .read w off :: rest → step s = .next { bus with readData := 0#32 :: s.readData })
end

