-- ==== Sys2Proof/Laws/Arith.lean ====
section
/-! SUPPORT. The laws of stores, shears and vectors: what a store keeps, that a shear and a negation are undone modulo 2^32
(40_primitives.md R125, R130), elements of ranges, and the lengths of every composer's output. -/

namespace Sys2Proof.Machine

/-! ## Stores -/

theorem store_val (e : Int) : (store e).val = BitVec.ofInt 32 e := rfl

/-- A store of a word's own value changes nothing and does not wrap. -/
@[simp] theorem store_toInt (w : Word) : store w.toInt = ⟨w, false⟩ := by simp [store]

/-- A store keeps a value exactly when it lies in the word range, and only then does not wrap (R12). -/
theorem store_ovf_eq_false_iff (e : Int) : (store e).ovf = false ↔ -2147483648 ≤ e ∧ e < 2147483648 := by
  simp only [store, decide_eq_false_iff_not, not_not, BitVec.toInt_ofInt]
  constructor
  · intro h
    rw [← h]
    constructor
    · have := Int.le_bmod (x := e) (m := 2 ^ 32) (by decide); omega
    · have := Int.bmod_lt (x := e) (m := 2 ^ 32) (by decide); omega
  · rintro ⟨h1, h2⟩
    exact Int.bmod_eq_of_le (by omega) (by omega)

/-- A store that does not wrap holds the exact value (R12). -/
theorem store_val_toInt_of_range {e : Int} (h1 : -2147483648 ≤ e) (h2 : e < 2147483648) : (store e).val.toInt = e := by
  rw [store_val, BitVec.toInt_ofInt]
  exact Int.bmod_eq_of_le (by omega) (by omega)

/-- Adding before a store is adding modulo 2^32. -/
theorem store_add (a : Word) (e : Int) : (store (a.toInt + e)).val = a + BitVec.ofInt 32 e := by
  rw [store_val, BitVec.ofInt_add, BitVec.ofInt_toInt]

theorem store_sub (a : Word) (e : Int) : (store (a.toInt - e)).val = a - BitVec.ofInt 32 e := by
  rw [Int.sub_eq_add_neg, store_add, BitVec.ofInt_neg, BitVec.sub_eq_add_neg]

/-- A shear is undone by the opposite shear with the same operand, wrap or not (R125). -/
theorem store_add_sub (a : Word) (e : Int) : (store ((store (a.toInt + e)).val.toInt - e)).val = a := by
  rw [store_sub, store_add, BitVec.add_sub_cancel]

theorem store_sub_add (a : Word) (e : Int) : (store ((store (a.toInt - e)).val.toInt + e)).val = a := by
  rw [store_add, store_sub, BitVec.sub_add_cancel]

theorem negate_val (x : Word) : (negate x).val = -x := by
  rw [negate, store_val, BitVec.ofInt_neg, BitVec.ofInt_toInt]

/-- Negation is its own inverse on words, wrap or not (R130). -/
@[simp] theorem negate_negate_val (x : Word) : (negate (negate x).val).val = x := by
  rw [negate_val, negate_val, BitVec.neg_neg]

@[simp] theorem negateIf_negateIf_val (b : Bool) (x : Word) : (negateIf b (negateIf b x).val).val = x := by
  cases b <;> simp [negateIf]

/-! ## Multiply-round-shift -/

theorem mulr_eq_div (v : Word) (m : Nat) : mulr v m = (v.toInt * (m : Int) + 8388608) / 16777216 := by
  rw [mulr, Int.shiftRight_eq_div_pow]
  norm_num

@[simp] theorem mulr_zero (m : Nat) : mulr 0#32 m = 0 := by simp [mulr_eq_div]

/-- mulr is the nearest integer, ties upward: within half a unit of v·m / 2^24 (R124). -/
theorem mulr_bounds (v : Word) (m : Nat) :
    16777216 * mulr v m ≤ v.toInt * (m : Int) + 8388608 ∧ v.toInt * (m : Int) + 8388608 < 16777216 * mulr v m + 16777216 := by
  rw [mulr_eq_div]; omega

/-! ## Vectors -/

theorem elt_map_range {f : Nat → Word} {n i : Nat} (h : i < n) : elt ((List.range n).map f) i = f i := by
  simp [elt, h]

theorem elt_append_left {x y : List Word} {i : Nat} (h : i < x.length) : elt (x ++ y) i = elt x i := by
  simp [elt, List.getElem?_append_left h]

theorem elt_append_right {x y : List Word} {i : Nat} (h : x.length ≤ i) : elt (x ++ y) i = elt y (i - x.length) := by
  simp [elt, List.getElem?_append_right h]

theorem elt_reverse {x : List Word} {i : Nat} (h : i < x.length) : elt x.reverse i = elt x (x.length - 1 - i) := by
  have h' : x.length - 1 - i < x.length := by omega
  simp [elt, h, h']

theorem elt_take {x : List Word} {i n : Nat} (h : i < n) : elt (x.take n) i = elt x i := by
  simp [elt, h]

theorem elt_drop {x : List Word} {i n : Nat} : elt (x.drop n) i = elt x (n + i) := by
  simp [elt]

/-- Vectors of one length are equal when their elements are. -/
theorem vec_ext {x y : List Word} (hl : x.length = y.length) (h : ∀ i < x.length, elt x i = elt y i) : x = y := by
  refine List.ext_getElem hl fun i h1 h2 => ?_
  simpa [elt, h1, h2] using h i h1

theorem rotAt_map_range {f : Nat → Rotated} {n i : Nat} (h : i < n) : rotAt ((List.range n).map f) i = f i := by
  simp [rotAt, h]

theorem elt_ps_map_range {f : Nat → Rotated} {n i : Nat} (h : i < n) : elt (ps ((List.range n).map f)) i = (f i).p := by
  simp [elt, ps, h]

theorem elt_qs_map_range {f : Nat → Rotated} {n i : Nat} (h : i < n) : elt (qs ((List.range n).map f)) i = (f i).q := by
  simp [elt, qs, h]

theorem elt_vals_map_range {f : Nat → Stored} {n i : Nat} (h : i < n) : elt (vals ((List.range n).map f)) i = (f i).val := by
  simp [elt, vals, h]

@[simp] theorem length_ps (l : List Rotated) : (ps l).length = l.length := by simp [ps]
@[simp] theorem length_qs (l : List Rotated) : (qs l).length = l.length := by simp [qs]
@[simp] theorem length_vals (l : List Stored) : (vals l).length = l.length := by simp [vals]

/-! ## Lengths -/

@[simp] theorem length_permC2_permS4 (n : Nat) : (permC2 n).length = 2 ^ n ∧ (permS4 n).length = 2 ^ n := by
  induction n with
  | zero => simp [permC2, permS4]
  | succ n ih => simp [permC2, permS4, ih.1, ih.2, Nat.pow_succ]; omega

@[simp] theorem length_permC2 (n : Nat) : (permC2 n).length = 2 ^ n := (length_permC2_permS4 n).1
@[simp] theorem length_permS4 (n : Nat) : (permS4 n).length = 2 ^ n := (length_permC2_permS4 n).2

@[simp] theorem length_permTable (tbl : Table) (n : Nat) : (permTable tbl n).length = 2 ^ n := by
  cases tbl <;> simp [permTable]

@[simp] theorem length_permFwd (t : List Nat) (v : List Word) : (permFwd t v).length = t.length := by simp [permFwd]
@[simp] theorem length_permInv (t : List Nat) (y : List Word) : (permInv t y).length = t.length := by simp [permInv]

@[simp] theorem length_c2Butterflies (fam : Family) (h : Nat) (x : List Word) : (c2Butterflies fam h x).length = h := by
  simp [c2Butterflies]

@[simp] theorem length_signAdjust (n : Nat) (f : List Word) : (signAdjust n f).length = 2 ^ n := by simp [signAdjust]

@[simp] theorem length_s4PreRotations (fam : Family) (n : Nat) (x : List Word) :
    (s4PreRotations fam n x).length = 2 ^ n := by simp [s4PreRotations]

@[simp] theorem length_alternate (n : Nat) (v : List Word) : (alternate n v).length = 2 ^ n := by simp [alternate]

@[simp] theorem length_ic2Butterflies (fam : Family) (h : Nat) (s d : List Word) :
    (ic2Butterflies fam h s d).length = h := by simp [ic2Butterflies]

@[simp] theorem length_is4PreRotations (fam : Family) (n : Nat) (u v : List Word) :
    (is4PreRotations fam n u v).length = 2 ^ n := by simp [is4PreRotations]

/-- Every composer's output has N words, whatever it is given (R151). -/
theorem length_c2_s4 (fam : Family) (n : Nat) (x : List Word) :
    (c2 fam n x).vec.length = 2 ^ n ∧ (s4 fam n x).vec.length = 2 ^ n := by
  induction n generalizing x with
  | zero => simp [c2, s4]
  | succ n ih =>
    constructor
    · simp only [c2, List.length_append, (ih _).1, length_vals, length_signAdjust, Nat.pow_succ]; omega
    · simp [s4, s4FirstHalf, s4SecondHalf, Nat.pow_succ]; omega

@[simp] theorem length_c2 (fam : Family) (n : Nat) (x : List Word) : (c2 fam n x).vec.length = 2 ^ n := (length_c2_s4 fam n x).1
@[simp] theorem length_s4 (fam : Family) (n : Nat) (x : List Word) : (s4 fam n x).vec.length = 2 ^ n := (length_c2_s4 fam n x).2

theorem length_ic2_is4 (fam : Family) (n : Nat) (y : List Word) :
    (ic2 fam n y).vec.length = 2 ^ n ∧ (is4 fam n y).vec.length = 2 ^ n := by
  cases n with
  | zero => simp [ic2, is4]
  | succ n => constructor <;> simp [ic2, is4, Nat.pow_succ] <;> omega

@[simp] theorem length_ic2 (fam : Family) (n : Nat) (y : List Word) : (ic2 fam n y).vec.length = 2 ^ n :=
  (length_ic2_is4 fam n y).1

@[simp] theorem length_is4 (fam : Family) (n : Nat) (y : List Word) : (is4 fam n y).vec.length = 2 ^ n :=
  (length_ic2_is4 fam n y).2

end Sys2Proof.Machine
end

