-- ==== Sys2Proof/Laws/State.lean ====
section
/-! SUPPORT. The fields of a state after each named update: one lemma per field per update, true by the update's definition,
so that no proof unfolds a record update. -/

namespace Sys2Proof.Machine

variable (s : State)

/-! ## signalError -/

@[simp] theorem State.signalError_params (code : ErrCode) : (s.signalError code).params = s.params := rfl
@[simp] theorem State.signalError_ctrl (code : ErrCode) : (s.signalError code).ctrl = s.ctrl := rfl
@[simp] theorem State.signalError_done (code : ErrCode) : (s.signalError code).done = s.done := rfl
@[simp] theorem State.signalError_err (code : ErrCode) : (s.signalError code).err = true := rfl
@[simp] theorem State.signalError_ovfFlag (code : ErrCode) : (s.signalError code).ovfFlag = s.ovfFlag := rfl
@[simp] theorem State.signalError_ecode (code : ErrCode) :
    (s.signalError code).ecode = (if s.err then s.ecode else code) := rfl
@[simp] theorem State.signalError_lastCmd (code : ErrCode) : (s.signalError code).lastCmd = s.lastCmd := rfl
@[simp] theorem State.signalError_src (code : ErrCode) : (s.signalError code).src = s.src := rfl
@[simp] theorem State.signalError_dst (code : ErrCode) : (s.signalError code).dst = s.dst := rfl
@[simp] theorem State.signalError_stride (code : ErrCode) : (s.signalError code).stride = s.stride := rfl
@[simp] theorem State.signalError_cmdcnt (code : ErrCode) : (s.signalError code).cmdcnt = s.cmdcnt := rfl
@[simp] theorem State.signalError_dmem (code : ErrCode) : (s.signalError code).dmem = s.dmem := rfl
@[simp] theorem State.signalError_pending (code : ErrCode) : (s.signalError code).pending = s.pending := rfl
@[simp] theorem State.signalError_vbuf (code : ErrCode) : (s.signalError code).vbuf = s.vbuf := rfl
@[simp] theorem State.signalError_ovf (code : ErrCode) : (s.signalError code).ovf = s.ovf := rfl
@[simp] theorem State.signalError_epoch (code : ErrCode) : (s.signalError code).epoch = s.epoch := rfl
@[simp] theorem State.signalError_inputs (code : ErrCode) : (s.signalError code).inputs = s.inputs := rfl
@[simp] theorem State.signalError_readData (code : ErrCode) : (s.signalError code).readData = s.readData := rfl
@[simp] theorem State.signalError_latency (code : ErrCode) : (s.signalError code).latency = s.latency := rfl
@[simp] theorem State.signalError_delay (code : ErrCode) : (s.signalError code).delay = s.delay := rfl

/-! ## writeStatus -/

@[simp] theorem State.writeStatus_params (v : Word) : (s.writeStatus v).params = s.params := rfl
@[simp] theorem State.writeStatus_ctrl (v : Word) : (s.writeStatus v).ctrl = s.ctrl := rfl
@[simp] theorem State.writeStatus_done (v : Word) : (s.writeStatus v).done = (s.done && !v.getLsbD 1) := rfl
@[simp] theorem State.writeStatus_err (v : Word) : (s.writeStatus v).err = (s.err && !v.getLsbD 2) := rfl
@[simp] theorem State.writeStatus_ovfFlag (v : Word) : (s.writeStatus v).ovfFlag = (s.ovfFlag && !v.getLsbD 3) := rfl
@[simp] theorem State.writeStatus_ecode (v : Word) :
    (s.writeStatus v).ecode = (if v.getLsbD 2 then .none else s.ecode) := rfl
@[simp] theorem State.writeStatus_lastCmd (v : Word) : (s.writeStatus v).lastCmd = s.lastCmd := rfl
@[simp] theorem State.writeStatus_src (v : Word) : (s.writeStatus v).src = s.src := rfl
@[simp] theorem State.writeStatus_dst (v : Word) : (s.writeStatus v).dst = s.dst := rfl
@[simp] theorem State.writeStatus_stride (v : Word) : (s.writeStatus v).stride = s.stride := rfl
@[simp] theorem State.writeStatus_cmdcnt (v : Word) : (s.writeStatus v).cmdcnt = s.cmdcnt := rfl
@[simp] theorem State.writeStatus_dmem (v : Word) : (s.writeStatus v).dmem = s.dmem := rfl
@[simp] theorem State.writeStatus_pending (v : Word) : (s.writeStatus v).pending = s.pending := rfl
@[simp] theorem State.writeStatus_vbuf (v : Word) : (s.writeStatus v).vbuf = s.vbuf := rfl
@[simp] theorem State.writeStatus_ovf (v : Word) : (s.writeStatus v).ovf = s.ovf := rfl
@[simp] theorem State.writeStatus_epoch (v : Word) : (s.writeStatus v).epoch = s.epoch := rfl
@[simp] theorem State.writeStatus_inputs (v : Word) : (s.writeStatus v).inputs = s.inputs := rfl
@[simp] theorem State.writeStatus_readData (v : Word) : (s.writeStatus v).readData = s.readData := rfl
@[simp] theorem State.writeStatus_latency (v : Word) : (s.writeStatus v).latency = s.latency := rfl
@[simp] theorem State.writeStatus_delay (v : Word) : (s.writeStatus v).delay = s.delay := rfl

/-! ## writeWord -/

@[simp] theorem State.writeWord_params (i : Nat) (v : Word) : (s.writeWord i v).params = s.params := rfl
@[simp] theorem State.writeWord_ctrl (i : Nat) (v : Word) : (s.writeWord i v).ctrl = s.ctrl := rfl
@[simp] theorem State.writeWord_done (i : Nat) (v : Word) : (s.writeWord i v).done = s.done := rfl
@[simp] theorem State.writeWord_err (i : Nat) (v : Word) : (s.writeWord i v).err = s.err := rfl
@[simp] theorem State.writeWord_ovfFlag (i : Nat) (v : Word) : (s.writeWord i v).ovfFlag = s.ovfFlag := rfl
@[simp] theorem State.writeWord_ecode (i : Nat) (v : Word) : (s.writeWord i v).ecode = s.ecode := rfl
@[simp] theorem State.writeWord_lastCmd (i : Nat) (v : Word) : (s.writeWord i v).lastCmd = s.lastCmd := rfl
@[simp] theorem State.writeWord_src (i : Nat) (v : Word) : (s.writeWord i v).src = s.src := rfl
@[simp] theorem State.writeWord_dst (i : Nat) (v : Word) : (s.writeWord i v).dst = s.dst := rfl
@[simp] theorem State.writeWord_stride (i : Nat) (v : Word) : (s.writeWord i v).stride = s.stride := rfl
@[simp] theorem State.writeWord_cmdcnt (i : Nat) (v : Word) : (s.writeWord i v).cmdcnt = s.cmdcnt := rfl
@[simp] theorem State.writeWord_dmem (i : Nat) (v : Word) : (s.writeWord i v).dmem = s.dmem.writeWord i v := rfl
@[simp] theorem State.writeWord_pending (i : Nat) (v : Word) : (s.writeWord i v).pending = s.pending := rfl
@[simp] theorem State.writeWord_vbuf (i : Nat) (v : Word) : (s.writeWord i v).vbuf = s.vbuf := rfl
@[simp] theorem State.writeWord_ovf (i : Nat) (v : Word) : (s.writeWord i v).ovf = s.ovf := rfl
@[simp] theorem State.writeWord_epoch (i : Nat) (v : Word) : (s.writeWord i v).epoch = s.epoch := rfl
@[simp] theorem State.writeWord_inputs (i : Nat) (v : Word) : (s.writeWord i v).inputs = s.inputs := rfl
@[simp] theorem State.writeWord_readData (i : Nat) (v : Word) : (s.writeWord i v).readData = s.readData := rfl
@[simp] theorem State.writeWord_latency (i : Nat) (v : Word) : (s.writeWord i v).latency = s.latency := rfl
@[simp] theorem State.writeWord_delay (i : Nat) (v : Word) : (s.writeWord i v).delay = s.delay := rfl

/-! ## accept -/

@[simp] theorem State.accept_params (c : Word) : (s.accept c).params = s.params := rfl
@[simp] theorem State.accept_ctrl (c : Word) : (s.accept c).ctrl = s.ctrl := rfl
@[simp] theorem State.accept_done (c : Word) : (s.accept c).done = false := rfl
@[simp] theorem State.accept_err (c : Word) : (s.accept c).err = s.err := rfl
@[simp] theorem State.accept_ovfFlag (c : Word) : (s.accept c).ovfFlag = s.ovfFlag := rfl
@[simp] theorem State.accept_ecode (c : Word) : (s.accept c).ecode = s.ecode := rfl
@[simp] theorem State.accept_lastCmd (c : Word) : (s.accept c).lastCmd = c := rfl
@[simp] theorem State.accept_src (c : Word) : (s.accept c).src = s.src := rfl
@[simp] theorem State.accept_dst (c : Word) : (s.accept c).dst = s.dst := rfl
@[simp] theorem State.accept_stride (c : Word) : (s.accept c).stride = s.stride := rfl
@[simp] theorem State.accept_cmdcnt (c : Word) : (s.accept c).cmdcnt = s.cmdcnt := rfl
@[simp] theorem State.accept_dmem (c : Word) : (s.accept c).dmem = s.dmem := rfl
@[simp] theorem State.accept_pending (c : Word) : (s.accept c).pending = some c := rfl
@[simp] theorem State.accept_vbuf (c : Word) : (s.accept c).vbuf = s.vbuf := rfl
@[simp] theorem State.accept_ovf (c : Word) : (s.accept c).ovf = s.ovf := rfl
@[simp] theorem State.accept_epoch (c : Word) : (s.accept c).epoch = s.epoch := rfl
@[simp] theorem State.accept_inputs (c : Word) : (s.accept c).inputs = s.inputs := rfl
@[simp] theorem State.accept_readData (c : Word) : (s.accept c).readData = s.readData := rfl
@[simp] theorem State.accept_latency (c : Word) : (s.accept c).latency = s.latency.tail := rfl
@[simp] theorem State.accept_delay (c : Word) : (s.accept c).delay = s.latency.headD 0 := rfl

/-! ## finish -/

@[simp] theorem State.finish_params : (s.finish).params = s.params := rfl
@[simp] theorem State.finish_ctrl : (s.finish).ctrl = s.ctrl := rfl
@[simp] theorem State.finish_done : (s.finish).done = true := rfl
@[simp] theorem State.finish_err : (s.finish).err = s.err := rfl
@[simp] theorem State.finish_ovfFlag : (s.finish).ovfFlag = s.ovfFlag := rfl
@[simp] theorem State.finish_ecode : (s.finish).ecode = s.ecode := rfl
@[simp] theorem State.finish_lastCmd : (s.finish).lastCmd = s.lastCmd := rfl
@[simp] theorem State.finish_src : (s.finish).src = s.src := rfl
@[simp] theorem State.finish_dst : (s.finish).dst = s.dst := rfl
@[simp] theorem State.finish_stride : (s.finish).stride = s.stride := rfl
@[simp] theorem State.finish_cmdcnt : (s.finish).cmdcnt = s.cmdcnt + 1#32 := rfl
@[simp] theorem State.finish_dmem : (s.finish).dmem = s.dmem := rfl
@[simp] theorem State.finish_pending : (s.finish).pending = none := rfl
@[simp] theorem State.finish_vbuf : (s.finish).vbuf = s.vbuf := rfl
@[simp] theorem State.finish_ovf : (s.finish).ovf = s.ovf := rfl
@[simp] theorem State.finish_epoch : (s.finish).epoch = s.epoch := rfl
@[simp] theorem State.finish_inputs : (s.finish).inputs = s.inputs := rfl
@[simp] theorem State.finish_readData : (s.finish).readData = s.readData := rfl
@[simp] theorem State.finish_latency : (s.finish).latency = s.latency := rfl
@[simp] theorem State.finish_delay : (s.finish).delay = 0 := rfl

/-! ## completeOk -/

@[simp] theorem State.completeOk_params (o : Bool) : (s.completeOk o).params = s.params := rfl
@[simp] theorem State.completeOk_ctrl (o : Bool) : (s.completeOk o).ctrl = s.ctrl := rfl
@[simp] theorem State.completeOk_done (o : Bool) : (s.completeOk o).done = true := rfl
@[simp] theorem State.completeOk_err (o : Bool) : (s.completeOk o).err = s.err := rfl
@[simp] theorem State.completeOk_ovfFlag (o : Bool) : (s.completeOk o).ovfFlag = (s.ovfFlag || o) := rfl
@[simp] theorem State.completeOk_ecode (o : Bool) : (s.completeOk o).ecode = s.ecode := rfl
@[simp] theorem State.completeOk_lastCmd (o : Bool) : (s.completeOk o).lastCmd = s.lastCmd := rfl
@[simp] theorem State.completeOk_src (o : Bool) : (s.completeOk o).src = s.src := rfl
@[simp] theorem State.completeOk_dst (o : Bool) : (s.completeOk o).dst = s.dst := rfl
@[simp] theorem State.completeOk_stride (o : Bool) : (s.completeOk o).stride = s.stride := rfl
@[simp] theorem State.completeOk_cmdcnt (o : Bool) : (s.completeOk o).cmdcnt = s.cmdcnt + 1#32 := rfl
@[simp] theorem State.completeOk_dmem (o : Bool) : (s.completeOk o).dmem = s.dmem := rfl
@[simp] theorem State.completeOk_pending (o : Bool) : (s.completeOk o).pending = none := rfl
@[simp] theorem State.completeOk_vbuf (o : Bool) : (s.completeOk o).vbuf = s.vbuf := rfl
@[simp] theorem State.completeOk_ovf (o : Bool) : (s.completeOk o).ovf = o := rfl
@[simp] theorem State.completeOk_epoch (o : Bool) : (s.completeOk o).epoch = s.epoch := rfl
@[simp] theorem State.completeOk_inputs (o : Bool) : (s.completeOk o).inputs = s.inputs := rfl
@[simp] theorem State.completeOk_readData (o : Bool) : (s.completeOk o).readData = s.readData := rfl
@[simp] theorem State.completeOk_latency (o : Bool) : (s.completeOk o).latency = s.latency := rfl
@[simp] theorem State.completeOk_delay (o : Bool) : (s.completeOk o).delay = 0 := rfl

/-! ## completeErr -/

@[simp] theorem State.completeErr_params (code : ErrCode) : (s.completeErr code).params = s.params := rfl
@[simp] theorem State.completeErr_ctrl (code : ErrCode) : (s.completeErr code).ctrl = s.ctrl := rfl
@[simp] theorem State.completeErr_done (code : ErrCode) : (s.completeErr code).done = true := rfl
@[simp] theorem State.completeErr_err (code : ErrCode) : (s.completeErr code).err = true := rfl
@[simp] theorem State.completeErr_ovfFlag (code : ErrCode) : (s.completeErr code).ovfFlag = s.ovfFlag := rfl
@[simp] theorem State.completeErr_ecode (code : ErrCode) :
    (s.completeErr code).ecode = (if s.err then s.ecode else code) := rfl
@[simp] theorem State.completeErr_lastCmd (code : ErrCode) : (s.completeErr code).lastCmd = s.lastCmd := rfl
@[simp] theorem State.completeErr_src (code : ErrCode) : (s.completeErr code).src = s.src := rfl
@[simp] theorem State.completeErr_dst (code : ErrCode) : (s.completeErr code).dst = s.dst := rfl
@[simp] theorem State.completeErr_stride (code : ErrCode) : (s.completeErr code).stride = s.stride := rfl
@[simp] theorem State.completeErr_cmdcnt (code : ErrCode) : (s.completeErr code).cmdcnt = s.cmdcnt + 1#32 := rfl
@[simp] theorem State.completeErr_dmem (code : ErrCode) : (s.completeErr code).dmem = s.dmem := rfl
@[simp] theorem State.completeErr_pending (code : ErrCode) : (s.completeErr code).pending = none := rfl
@[simp] theorem State.completeErr_vbuf (code : ErrCode) : (s.completeErr code).vbuf = s.vbuf := rfl
@[simp] theorem State.completeErr_ovf (code : ErrCode) : (s.completeErr code).ovf = false := rfl
@[simp] theorem State.completeErr_epoch (code : ErrCode) : (s.completeErr code).epoch = s.epoch := rfl
@[simp] theorem State.completeErr_inputs (code : ErrCode) : (s.completeErr code).inputs = s.inputs := rfl
@[simp] theorem State.completeErr_readData (code : ErrCode) : (s.completeErr code).readData = s.readData := rfl
@[simp] theorem State.completeErr_latency (code : ErrCode) : (s.completeErr code).latency = s.latency := rfl
@[simp] theorem State.completeErr_delay (code : ErrCode) : (s.completeErr code).delay = 0 := rfl

/-! ## scatter -/

@[simp] theorem State.scatter_params (m : Mode) (n : Nat) (y : List Word) : (s.scatter m n y).params = s.params := rfl
@[simp] theorem State.scatter_ctrl (m : Mode) (n : Nat) (y : List Word) : (s.scatter m n y).ctrl = s.ctrl := rfl
@[simp] theorem State.scatter_done (m : Mode) (n : Nat) (y : List Word) : (s.scatter m n y).done = s.done := rfl
@[simp] theorem State.scatter_err (m : Mode) (n : Nat) (y : List Word) : (s.scatter m n y).err = s.err := rfl
@[simp] theorem State.scatter_ovfFlag (m : Mode) (n : Nat) (y : List Word) : (s.scatter m n y).ovfFlag = s.ovfFlag := rfl
@[simp] theorem State.scatter_ecode (m : Mode) (n : Nat) (y : List Word) : (s.scatter m n y).ecode = s.ecode := rfl
@[simp] theorem State.scatter_lastCmd (m : Mode) (n : Nat) (y : List Word) : (s.scatter m n y).lastCmd = s.lastCmd := rfl
@[simp] theorem State.scatter_src (m : Mode) (n : Nat) (y : List Word) : (s.scatter m n y).src = s.src := rfl
@[simp] theorem State.scatter_dst (m : Mode) (n : Nat) (y : List Word) : (s.scatter m n y).dst = s.dst := rfl
@[simp] theorem State.scatter_stride (m : Mode) (n : Nat) (y : List Word) : (s.scatter m n y).stride = s.stride := rfl
@[simp] theorem State.scatter_cmdcnt (m : Mode) (n : Nat) (y : List Word) : (s.scatter m n y).cmdcnt = s.cmdcnt := rfl
@[simp] theorem State.scatter_dmem (m : Mode) (n : Nat) (y : List Word) :
    (s.scatter m n y).dmem = s.dmem.writeWords (s.scatterList m n) y := rfl
@[simp] theorem State.scatter_pending (m : Mode) (n : Nat) (y : List Word) : (s.scatter m n y).pending = s.pending := rfl
@[simp] theorem State.scatter_vbuf (m : Mode) (n : Nat) (y : List Word) : (s.scatter m n y).vbuf = setVector s.vbuf y := rfl
@[simp] theorem State.scatter_ovf (m : Mode) (n : Nat) (y : List Word) : (s.scatter m n y).ovf = s.ovf := rfl
@[simp] theorem State.scatter_epoch (m : Mode) (n : Nat) (y : List Word) : (s.scatter m n y).epoch = s.epoch := rfl
@[simp] theorem State.scatter_inputs (m : Mode) (n : Nat) (y : List Word) : (s.scatter m n y).inputs = s.inputs := rfl
@[simp] theorem State.scatter_readData (m : Mode) (n : Nat) (y : List Word) : (s.scatter m n y).readData = s.readData := rfl
@[simp] theorem State.scatter_latency (m : Mode) (n : Nat) (y : List Word) : (s.scatter m n y).latency = s.latency := rfl
@[simp] theorem State.scatter_delay (m : Mode) (n : Nat) (y : List Word) : (s.scatter m n y).delay = s.delay := rfl

/-! ## platformReset -/

@[simp] theorem State.platformReset_params : (s.platformReset).params = s.params := rfl
@[simp] theorem State.platformReset_ctrl : (s.platformReset).ctrl = 0#4 := rfl
@[simp] theorem State.platformReset_done : (s.platformReset).done = false := rfl
@[simp] theorem State.platformReset_err : (s.platformReset).err = false := rfl
@[simp] theorem State.platformReset_ovfFlag : (s.platformReset).ovfFlag = false := rfl
@[simp] theorem State.platformReset_ecode : (s.platformReset).ecode = .none := rfl
@[simp] theorem State.platformReset_lastCmd : (s.platformReset).lastCmd = 0#32 := rfl
@[simp] theorem State.platformReset_src : (s.platformReset).src = 0#16 := rfl
@[simp] theorem State.platformReset_dst : (s.platformReset).dst = 0#16 := rfl
@[simp] theorem State.platformReset_stride : (s.platformReset).stride = 1#16 := rfl
@[simp] theorem State.platformReset_cmdcnt : (s.platformReset).cmdcnt = 0#32 := rfl
@[simp] theorem State.platformReset_dmem : (s.platformReset).dmem = [] := rfl
@[simp] theorem State.platformReset_pending : (s.platformReset).pending = none := rfl
@[simp] theorem State.platformReset_vbuf : (s.platformReset).vbuf = Vector.replicate 64 0#32 := rfl
@[simp] theorem State.platformReset_ovf : (s.platformReset).ovf = false := rfl
@[simp] theorem State.platformReset_epoch : (s.platformReset).epoch = s.epoch + 1 := rfl
@[simp] theorem State.platformReset_inputs : (s.platformReset).inputs = s.inputs := rfl
@[simp] theorem State.platformReset_readData : (s.platformReset).readData = s.readData := rfl
@[simp] theorem State.platformReset_latency : (s.platformReset).latency = s.latency := rfl
@[simp] theorem State.platformReset_delay : (s.platformReset).delay = 0 := rfl

/-! ## takeInput -/

@[simp] theorem State.takeInput_params (rest : List Input) : (s.takeInput rest).params = s.params := rfl
@[simp] theorem State.takeInput_ctrl (rest : List Input) : (s.takeInput rest).ctrl = s.ctrl := rfl
@[simp] theorem State.takeInput_done (rest : List Input) : (s.takeInput rest).done = s.done := rfl
@[simp] theorem State.takeInput_err (rest : List Input) : (s.takeInput rest).err = s.err := rfl
@[simp] theorem State.takeInput_ovfFlag (rest : List Input) : (s.takeInput rest).ovfFlag = s.ovfFlag := rfl
@[simp] theorem State.takeInput_ecode (rest : List Input) : (s.takeInput rest).ecode = s.ecode := rfl
@[simp] theorem State.takeInput_lastCmd (rest : List Input) : (s.takeInput rest).lastCmd = s.lastCmd := rfl
@[simp] theorem State.takeInput_src (rest : List Input) : (s.takeInput rest).src = s.src := rfl
@[simp] theorem State.takeInput_dst (rest : List Input) : (s.takeInput rest).dst = s.dst := rfl
@[simp] theorem State.takeInput_stride (rest : List Input) : (s.takeInput rest).stride = s.stride := rfl
@[simp] theorem State.takeInput_cmdcnt (rest : List Input) : (s.takeInput rest).cmdcnt = s.cmdcnt := rfl
@[simp] theorem State.takeInput_dmem (rest : List Input) : (s.takeInput rest).dmem = s.dmem := rfl
@[simp] theorem State.takeInput_pending (rest : List Input) : (s.takeInput rest).pending = s.pending := rfl
@[simp] theorem State.takeInput_vbuf (rest : List Input) : (s.takeInput rest).vbuf = s.vbuf := rfl
@[simp] theorem State.takeInput_ovf (rest : List Input) : (s.takeInput rest).ovf = s.ovf := rfl
@[simp] theorem State.takeInput_epoch (rest : List Input) : (s.takeInput rest).epoch = s.epoch := rfl
@[simp] theorem State.takeInput_inputs (rest : List Input) : (s.takeInput rest).inputs = rest := rfl
@[simp] theorem State.takeInput_readData (rest : List Input) : (s.takeInput rest).readData = s.readData := rfl
@[simp] theorem State.takeInput_latency (rest : List Input) : (s.takeInput rest).latency = s.latency := rfl
@[simp] theorem State.takeInput_delay (rest : List Input) : (s.takeInput rest).delay = s.delay - 1 := rfl

/-! ## placeCommand -/

@[simp] theorem State.placeCommand_params (c : Word) : (s.placeCommand c).params = s.params := rfl
@[simp] theorem State.placeCommand_ctrl (c : Word) : (s.placeCommand c).ctrl = s.ctrl := rfl
@[simp] theorem State.placeCommand_done (c : Word) : (s.placeCommand c).done = false := rfl
@[simp] theorem State.placeCommand_err (c : Word) : (s.placeCommand c).err = s.err := rfl
@[simp] theorem State.placeCommand_ovfFlag (c : Word) : (s.placeCommand c).ovfFlag = s.ovfFlag := rfl
@[simp] theorem State.placeCommand_ecode (c : Word) : (s.placeCommand c).ecode = s.ecode := rfl
@[simp] theorem State.placeCommand_lastCmd (c : Word) : (s.placeCommand c).lastCmd = c := rfl
@[simp] theorem State.placeCommand_src (c : Word) : (s.placeCommand c).src = s.src := rfl
@[simp] theorem State.placeCommand_dst (c : Word) : (s.placeCommand c).dst = s.dst := rfl
@[simp] theorem State.placeCommand_stride (c : Word) : (s.placeCommand c).stride = s.stride := rfl
@[simp] theorem State.placeCommand_cmdcnt (c : Word) : (s.placeCommand c).cmdcnt = s.cmdcnt := rfl
@[simp] theorem State.placeCommand_dmem (c : Word) : (s.placeCommand c).dmem = s.dmem := rfl
@[simp] theorem State.placeCommand_pending (c : Word) : (s.placeCommand c).pending = some c := rfl
@[simp] theorem State.placeCommand_vbuf (c : Word) : (s.placeCommand c).vbuf = s.vbuf := rfl
@[simp] theorem State.placeCommand_ovf (c : Word) : (s.placeCommand c).ovf = s.ovf := rfl
@[simp] theorem State.placeCommand_epoch (c : Word) : (s.placeCommand c).epoch = s.epoch := rfl
@[simp] theorem State.placeCommand_inputs (c : Word) : (s.placeCommand c).inputs = s.inputs := rfl
@[simp] theorem State.placeCommand_readData (c : Word) : (s.placeCommand c).readData = s.readData := rfl
@[simp] theorem State.placeCommand_latency (c : Word) : (s.placeCommand c).latency = s.latency := rfl
@[simp] theorem State.placeCommand_delay (c : Word) : (s.placeCommand c).delay = 0 := rfl

end Sys2Proof.Machine
end

