-- ==== Sys2Proof/Laws/Memory.lean ====
section
/-! SUPPORT. The laws of DMEM: a read after a write, what a write leaves alone, and that every memory operation keeps the
canonical form and the bound of 10_state.md R46. -/

namespace Sys2Proof.Machine

/-! ## Bytes -/

@[simp] theorem Memory.find_nil (a : Nat) : Memory.find [] a = none := rfl

theorem Memory.find_cons (k : Nat) (v : Byte) (m : Memory) (a : Nat) :
    Memory.find ((k, v) :: m) a = if k = a then some v else Memory.find m a := rfl

theorem Memory.find_insert (m : Memory) (a c : Nat) (b : Byte) :
    (m.insert a b).find c = if a = c then some b else m.find c := by
  induction m with
  | nil => simp [Memory.insert, Memory.find_cons]
  | cons cell m ih =>
    obtain ⟨k, v⟩ := cell
    simp only [Memory.insert]
    split
    · simp [Memory.find_cons]
    · split
      · next h => subst h; simp only [Memory.find_cons]; split <;> rfl
      · next _ h =>
        simp only [Memory.find_cons, ih]
        split
        · next hk => simp [hk ▸ h]
        · rfl

/-- Every cell of an insertion is the new one or an old one. -/
theorem Memory.mem_insert {m : Memory} {a : Nat} {b : Byte} {cell : Host.Cell} (h : cell ∈ m.insert a b) :
    cell = (a, b) ∨ cell ∈ m := by
  induction m with
  | nil => simpa [Memory.insert] using h
  | cons c m ih =>
    obtain ⟨k, v⟩ := c
    simp only [Memory.insert] at h
    split at h
    · simpa using h
    · split at h
      · rcases List.mem_cons.1 h with h | h
        · exact .inl h
        · exact .inr (List.mem_cons_of_mem _ h)
      · rcases List.mem_cons.1 h with h | h
        · exact .inr (h ▸ List.mem_cons_self)
        · exact (ih h).imp id (List.mem_cons_of_mem _)

theorem Memory.wf_insert {m : Memory} (h : m.wf) (a : Nat) (b : Byte) : (m.insert a b).wf := by
  induction m with
  | nil => simp [Memory.insert, Memory.wf]
  | cons c m ih =>
    obtain ⟨k, v⟩ := c
    rw [Memory.wf, List.pairwise_cons] at h
    simp only [Memory.insert]
    split
    · next hlt =>
      refine List.pairwise_cons.2 ⟨fun x hx => ?_, List.pairwise_cons.2 h⟩
      rcases List.mem_cons.1 hx with rfl | hx
      · exact hlt
      · exact Nat.lt_trans hlt (h.1 x hx)
    · split
      · next heq => subst heq; exact List.pairwise_cons.2 h
      · next hlt hne =>
        refine List.pairwise_cons.2 ⟨fun x hx => ?_, ih h.2⟩
        rcases Memory.mem_insert hx with rfl | hx
        · simp only; omega
        · exact h.1 x hx

theorem Memory.within_insert {m : Memory} {nw : Nat} (h : m.within nw) {a : Nat} (ha : a < 4 * nw) (b : Byte) :
    (m.insert a b).within nw := by
  intro cell hc
  rcases Memory.mem_insert hc with rfl | hc
  · exact ha
  · exact h cell hc

/-- A key listed in a memory in canonical form reads as its value, and nothing below the first key is listed. -/
theorem Memory.find_lt {m : Memory} {a : Nat} (h : ∀ cell ∈ m, a < cell.1) : m.find a = none := by
  induction m with
  | nil => rfl
  | cons c m ih =>
    obtain ⟨k, v⟩ := c
    have hk := h (k, v) List.mem_cons_self
    rw [Memory.find_cons, if_neg (by simp only at hk; omega)]
    exact ih fun cell hc => h cell (List.mem_cons_of_mem _ hc)

/-- Canonical memories that read alike are equal data. -/
theorem Memory.eq_of_find {m₁ m₂ : Memory} (h₁ : m₁.wf) (h₂ : m₂.wf) (h : ∀ a, m₁.find a = m₂.find a) : m₁ = m₂ := by
  induction m₁ generalizing m₂ with
  | nil =>
    cases m₂ with
    | nil => rfl
    | cons c m =>
      obtain ⟨k, v⟩ := c
      simpa [Memory.find_cons] using h k
  | cons c₁ m₁ ih =>
    obtain ⟨k₁, v₁⟩ := c₁
    cases m₂ with
    | nil => simpa [Memory.find_cons] using h k₁
    | cons c₂ m₂ =>
      obtain ⟨k₂, v₂⟩ := c₂
      rw [Memory.wf, List.pairwise_cons] at h₁ h₂
      have key : k₁ = k₂ := by
        rcases Nat.lt_trichotomy k₁ k₂ with hlt | heq | hlt
        · have := h k₁
          rw [Memory.find_cons, if_pos rfl, Memory.find_lt] at this
          · exact absurd this (by simp)
          · intro cell hc
            rcases List.mem_cons.1 hc with rfl | hc
            · exact hlt
            · exact Nat.lt_trans hlt (h₂.1 cell hc)
        · exact heq
        · have := h k₂
          rw [Memory.find_cons (k := k₂), if_pos rfl, Memory.find_lt] at this
          · exact absurd this (by simp)
          · intro cell hc
            rcases List.mem_cons.1 hc with rfl | hc
            · exact hlt
            · exact Nat.lt_trans hlt (h₁.1 cell hc)
      subst key
      have hv : v₁ = v₂ := by simpa [Memory.find_cons] using h k₁
      subst hv
      refine congrArg _ (ih h₁.2 h₂.2 fun a => ?_)
      by_cases ha : k₁ = a
      · subst ha
        rw [Memory.find_lt h₁.1, Memory.find_lt h₂.1]
      · simpa [Memory.find_cons, ha] using h a

/-! ## Words -/

theorem ofLanes_lane (v : Word) : ofLanes (lane v 0) (lane v 1) (lane v 2) (lane v 3) = v := by
  refine BitVec.eq_of_getLsbD_eq fun i hi => ?_
  simp only [ofLanes, lane, BitVec.getLsbD_append, BitVec.getLsbD_extractLsb']
  have h : i < 8 ∨ 8 ≤ i ∧ i < 16 ∨ 16 ≤ i ∧ i < 24 ∨ 24 ≤ i := by omega
  rcases h with h | h | h | h
  · simp [h]
  · simp [show ¬i < 8 by omega, show i - 8 < 8 by omega, show 8 + (i - 8) = i by omega]
  · simp [show ¬i < 8 by omega, show ¬i - 8 < 8 by omega, show i - 8 - 8 < 8 by omega,
      show 16 + (i - 8 - 8) = i by omega]
  · simp [show ¬i < 8 by omega, show ¬i - 8 < 8 by omega, show ¬i - 8 - 8 < 8 by omega,
      show i - 8 - 8 - 8 < 8 by omega, show 24 + (i - 8 - 8 - 8) = i by omega]

/-- A written word: its lanes at its four bytes, every other byte as before. -/
theorem Memory.find_writeWord (m : Memory) (i : Nat) (v : Word) (a : Nat) :
    (m.writeWord i v).find a = if a / 4 = i then some (lane v (a % 4)) else m.find a := by
  simp only [Memory.writeWord, Memory.find_insert]
  by_cases h : a / 4 = i
  · rw [if_pos h]
    have h4 : a % 4 = 0 ∨ a % 4 = 1 ∨ a % 4 = 2 ∨ a % 4 = 3 := by omega
    rcases h4 with h4 | h4 | h4 | h4 <;> rw [h4]
    · rw [if_neg (by omega), if_neg (by omega), if_neg (by omega), if_pos (by omega)]
    · rw [if_neg (by omega), if_neg (by omega), if_pos (by omega)]
    · rw [if_neg (by omega), if_pos (by omega)]
    · rw [if_pos (by omega)]
  · rw [if_neg h, if_neg (by omega), if_neg (by omega), if_neg (by omega), if_neg (by omega)]

theorem Memory.wf_writeWord {m : Memory} (h : m.wf) (i : Nat) (v : Word) : (m.writeWord i v).wf :=
  Memory.wf_insert (Memory.wf_insert (Memory.wf_insert (Memory.wf_insert h _ _) _ _) _ _) _ _

theorem Memory.within_writeWord {m : Memory} {nw : Nat} (h : m.within nw) {i : Nat} (hi : i < nw) (v : Word) :
    (m.writeWord i v).within nw :=
  Memory.within_insert
    (Memory.within_insert
      (Memory.within_insert (Memory.within_insert h (by omega) _) (by omega) _) (by omega) _) (by omega) _

theorem Memory.writeWords_nil (m : Memory) (y : List Word) : m.writeWords [] y = m := by simp [Memory.writeWords]

theorem Memory.writeWords_cons (m : Memory) (i : Nat) (is : List Nat) (v : Word) (y : List Word) :
    m.writeWords (i :: is) (v :: y) = (m.writeWord i v).writeWords is y := by simp [Memory.writeWords]

theorem Memory.wf_writeWords {m : Memory} (h : m.wf) (is : List Nat) (y : List Word) : (m.writeWords is y).wf := by
  induction is generalizing m y with
  | nil => rwa [Memory.writeWords_nil]
  | cons i is ih =>
    cases y with
    | nil => simpa [Memory.writeWords] using h
    | cons v y => rw [Memory.writeWords_cons]; exact ih (Memory.wf_writeWord h i v) y

theorem Memory.within_writeWords {m : Memory} {nw : Nat} (h : m.within nw) {is : List Nat} (hi : ∀ i ∈ is, i < nw)
    (y : List Word) : (m.writeWords is y).within nw := by
  induction is generalizing m y with
  | nil => rwa [Memory.writeWords_nil]
  | cons i is ih =>
    cases y with
    | nil => simpa [Memory.writeWords] using h
    | cons v y =>
      rw [Memory.writeWords_cons]
      exact ih (Memory.within_writeWord h (hi i List.mem_cons_self) v) (fun j hj => hi j (List.mem_cons_of_mem _ hj)) y

/-- A byte of no written word reads as before. -/
theorem Memory.find_writeWords_of_notMem (m : Memory) {is : List Nat} (y : List Word) {a : Nat} (h : a / 4 ∉ is) :
    (m.writeWords is y).find a = m.find a := by
  induction is generalizing m y with
  | nil => rw [Memory.writeWords_nil]
  | cons i is ih =>
    cases y with
    | nil => simp [Memory.writeWords]
    | cons v y =>
      rw [List.mem_cons, not_or] at h
      rw [Memory.writeWords_cons, ih (m.writeWord i v) y h.2, Memory.find_writeWord, if_neg h.1]

/-- The last write to a word wins: a byte of word `is[k]` that no later entry names holds the lane of `y[k]` (R245). -/
theorem Memory.find_writeWords (m : Memory) (is : List Nat) (y : List Word) (k : Nat) (hk : k < is.length)
    (hy : is.length = y.length) {a : Nat} (ha : a / 4 = is[k])
    (hlast : ∀ j (hj : j < is.length), k < j → is[j] ≠ is[k]) :
    (m.writeWords is y).find a = some (lane (elt y k) (a % 4)) := by
  induction is generalizing m y k with
  | nil => simp at hk
  | cons i is ih =>
    cases y with
    | nil => simp at hy
    | cons v y =>
      rw [Memory.writeWords_cons]
      cases k with
      | zero =>
        have hne : a / 4 ∉ is := by
          intro hmem
          obtain ⟨j, hj, hji⟩ := List.getElem_of_mem hmem
          exact hlast (j + 1) (by simpa using hj) (by omega) (by simpa [hji] using ha)
        rw [Memory.find_writeWords_of_notMem _ y hne, Memory.find_writeWord, if_pos (by simpa using ha)]
        simp [elt]
      | succ k =>
        have := ih (m.writeWord i v) y k (by simpa using hk) (by simpa using hy) (by simpa using ha)
          (fun j hj hkj => hlast (j + 1) (Nat.succ_lt_succ hj) (by omega))
        simpa [elt] using this

/-! ## Reads of a state -/

/-- Reads depend on DMEM and the draws only. -/
theorem State.readByte_congr {s t : State} (hm : t.dmem = s.dmem) (he : t.epoch = s.epoch) (a : Nat) :
    t.readByte a = s.readByte a := by simp [State.readByte, hm, he]

theorem State.readWord_congr {s t : State} (hm : t.dmem = s.dmem) (he : t.epoch = s.epoch) (i : Nat) :
    t.readWord i = s.readWord i := by simp [State.readWord, State.readByte_congr hm he]

theorem State.readByte_writeWord (s : State) (i : Nat) (v : Word) (a : Nat) :
    (s.writeWord i v).readByte a = if a / 4 = i then lane v (a % 4) else s.readByte a := by
  simp only [State.readByte, State.writeWord_dmem, Memory.find_writeWord, State.writeWord_epoch]
  split
  · next h => split at h <;> simp_all
  · next h => split at h <;> simp_all

/-- A word read after it is written is the word written; every other word reads as before. -/
theorem State.readWord_writeWord (s : State) (i j : Nat) (v : Word) :
    (s.writeWord i v).readWord j = if j = i then v else s.readWord j := by
  simp only [State.readWord, State.readByte_writeWord]
  by_cases h : j = i
  · subst h
    rw [if_pos (by omega), if_pos (by omega), if_pos (by omega), if_pos (by omega), if_pos rfl]
    rw [show 4 * j % 4 = 0 by omega, show (4 * j + 1) % 4 = 1 by omega, show (4 * j + 2) % 4 = 2 by omega,
      show (4 * j + 3) % 4 = 3 by omega, ofLanes_lane]
  · rw [if_neg (by omega), if_neg (by omega), if_neg (by omega), if_neg (by omega), if_neg h]

/-- A byte of no word of the scatter list reads as before. -/
theorem State.readByte_scatter_of_notMem (s : State) (m : Mode) (n : Nat) (y : List Word) {a : Nat}
    (h : a / 4 ∉ s.scatterList m n) : (s.scatter m n y).readByte a = s.readByte a := by
  simp [State.readByte, Memory.find_writeWords_of_notMem _ y h]

/-- DMEM has its canonical form after reset (R49). -/
theorem State.reset_dmem_wf : State.reset.dmem.wf := List.Pairwise.nil

end Sys2Proof.Machine
end

