-- ==== Sys2Proof/Laws/Machine.lean ====
section
/-! SUPPORT. What each shared operation of the machine can do, said once: the transfer frame, the commands, the host port and
the step. Proofs cite these and do not unfold the operations again. -/

namespace Sys2Proof.Machine

/-! ## Transfers -/

/-- The RANGE check in terms of the addresses (R236). -/
theorem State.inRange_iff (s : State) (m : Mode) (n : Nat) :
    s.inRange m n = true ↔ ∀ i < n, s.gatherAddr m i < s.nw ∧ s.scatterAddr m i < s.nw := by
  simp [State.inRange, State.gatherList, State.scatterList, forall_and]

@[simp] theorem State.length_gather (s : State) (m : Mode) (n : Nat) : (s.gather m n).length = n := by
  simp [State.gather, State.gatherList]

@[simp] theorem State.length_scatterList (s : State) (m : Mode) (n : Nat) : (s.scatterList m n).length = n := by
  simp [State.scatterList]

theorem State.elt_gather (s : State) (m : Mode) (n : Nat) {i : Nat} (h : i < n) :
    elt (s.gather m n) i = s.readWord (s.gatherAddr m i) := by
  simp [elt, State.gather, State.gatherList, h]

theorem State.mem_scatterList (s : State) (m : Mode) (n a : Nat) :
    a ∈ s.scatterList m n ↔ ∃ i < n, s.scatterAddr m i = a := by
  simp [State.scatterList]

/-- The transfer frame's three outcomes (R230, R236, R282, R283). -/
theorem transfer_ok {m : Mode} {sz : BitVec 3} (f : List Word → Composed) {s : State} (hsz : sizeOk sz = true)
    (hr : s.inRange m (size sz) = true) :
    transfer m sz f s =
      (s.scatter m (size sz) (f (s.gather m (size sz))).vec).completeOk (f (s.gather m (size sz))).ovf := by
  simp [transfer, hsz, hr]

theorem transfer_range {m : Mode} {sz : BitVec 3} (f : List Word → Composed) {s : State} (hsz : sizeOk sz = true)
    (hr : s.inRange m (size sz) = false) : transfer m sz f s = s.completeErr .range := by
  simp [transfer, hsz, hr]

theorem transfer_illegal {m : Mode} {sz : BitVec 3} (f : List Word → Composed) {s : State} (hsz : sizeOk sz = false) :
    transfer m sz f s = s.completeErr .illegal := by
  simp [transfer, hsz]

/-- A word of the output: the scatter list's last entry with its address wins (R236, R245). -/
theorem State.readWord_scatter (s : State) (m : Mode) (n : Nat) (y : List Word) (hy : y.length = n) {i : Nat} (hi : i < n)
    (hlast : ∀ j < n, i < j → s.scatterAddr m j ≠ s.scatterAddr m i) :
    (s.scatter m n y).readWord (s.scatterAddr m i) = elt y i := by
  have hb : ∀ a, a / 4 = s.scatterAddr m i → (s.scatter m n y).readByte a = lane (elt y i) (a % 4) := by
    intro a ha
    have := Memory.find_writeWords s.dmem (s.scatterList m n) y i (by simpa using hi) (by simpa using hy.symm) (a := a)
      (by simpa [State.scatterList] using ha)
      (fun j hj hij => by simpa [State.scatterList] using hlast j (by simpa using hj) hij)
    simp [State.readByte, this]
  have h0 := hb (4 * s.scatterAddr m i) (by omega)
  have h1 := hb (4 * s.scatterAddr m i + 1) (by omega)
  have h2 := hb (4 * s.scatterAddr m i + 2) (by omega)
  have h3 := hb (4 * s.scatterAddr m i + 3) (by omega)
  rw [State.readWord, h0, h1, h2, h3, show 4 * s.scatterAddr m i % 4 = 0 by omega,
    show (4 * s.scatterAddr m i + 1) % 4 = 1 by omega, show (4 * s.scatterAddr m i + 2) % 4 = 2 by omega,
    show (4 * s.scatterAddr m i + 3) % 4 = 3 by omega, ofLanes_lane]

/-! ## Commands -/

/-- How a command can leave the state it is executed in, before the completion's own updates: an error, nothing but the
completion, one address register, or a checked scatter (R232 to R244). -/
inductive Effect (s : State) : State → Prop where
  | error (code : ErrCode) (h : code = .illegal ∨ code = .range) : Effect s (s.completeErr code)
  | quiet : Effect s (s.completeOk false)
  | src (imm : Half) : Effect s (State.completeOk { s with src := imm } false)
  | dst (imm : Half) : Effect s (State.completeOk { s with dst := imm } false)
  | stride (imm : Half) : Effect s (State.completeOk { s with stride := imm } false)
  | scattered (m : Mode) (n : Nat) (y : Composed) (h : s.inRange m n = true) :
      Effect s ((s.scatter m n y.vec).completeOk y.ovf)

theorem transfer_effect (m : Mode) (sz : BitVec 3) (f : List Word → Composed) (s : State) : Effect s (transfer m sz f s) := by
  cases hsz : sizeOk sz with
  | false => rw [transfer_illegal f hsz]; exact .error _ (.inl rfl)
  | true =>
    cases hr : s.inRange m (size sz) with
    | false => rw [transfer_range f hsz hr]; exact .error _ (.inr rfl)
    | true => rw [transfer_ok f hsz hr]; exact .scattered m _ _ hr

/-- Every command completes, in one of the ways of `Effect` (R292). -/
theorem exec_effect (i : Instr) (s : State) : ∃ t, exec i s = .next t ∧ Effect s t := by
  cases i with
  | nop => exact ⟨_, rfl, .quiet⟩
  | setsrc imm => exact ⟨_, rfl, .src imm⟩
  | setdst imm => exact ⟨_, rfl, .dst imm⟩
  | setstr imm => exact ⟨_, rfl, .stride imm⟩
  | fdct sz fam raw => exact ⟨_, rfl, transfer_effect _ _ _ _⟩
  | idct sz fam raw => exact ⟨_, rfl, transfer_effect _ _ _ _⟩
  | fdst sz fam raw => exact ⟨_, rfl, transfer_effect _ _ _ _⟩
  | idst sz fam raw => exact ⟨_, rfl, transfer_effect _ _ _ _⟩
  | fidt sz => exact ⟨_, rfl, transfer_effect _ _ _ _⟩
  | iidt sz => exact ⟨_, rfl, transfer_effect _ _ _ _⟩
  | permf sz tbl => exact ⟨_, rfl, transfer_effect _ _ _ _⟩
  | permi sz tbl => exact ⟨_, rfl, transfer_effect _ _ _ _⟩

/-- The engine's step completes, in one of the ways of `Effect` (R230). -/
theorem engineStep_effect (c : Word) (s : State) : ∃ t, engineStep c s = .next t ∧ Effect s t := by
  unfold engineStep
  cases decode c with
  | command i => exact exec_effect i s
  | illegal why => exact ⟨_, rfl, .error _ (.inl rfl)⟩

/-! ## The host port -/

/-- What a host read leaves: the same state, or an error and nothing else (R66). -/
theorem State.hostRead_cases (s : State) (w : Width) (off : Nat) :
    (s.hostRead w off).2 = s ∨ (s.hostRead w off).2 = s.signalError .bus ∨
      (s.hostRead w off).2 = s.signalError .hostbusy ∧ s.busy = true := by
  unfold State.hostRead
  split
  · split
    · cases h : s.busy <;> simp
    · exact .inl rfl
  · exact .inr (.inl rfl)

/-- What a host write leaves (R38 to R45, R61, R63). -/
inductive Written (s : State) : State → Prop where
  | ignored : Written s s
  | error (code : ErrCode) (h : code = .bus ∨ (code = .hostbusy ∨ code = .overrun) ∧ s.busy = true) :
      Written s (s.signalError code)
  | ctrl (v : BitVec 4) : Written s { s with ctrl := v }
  | status (v : Word) : Written s (s.writeStatus v)
  | accepted (c : Word) (h : s.busy = false) : Written s (s.accept c)
  | src (v : Half) (h : s.busy = false) : Written s { s with src := v }
  | dst (v : Half) (h : s.busy = false) : Written s { s with dst := v }
  | stride (v : Half) (h : s.busy = false) : Written s { s with stride := v }
  | word (i : Nat) (v : Word) (hi : i < s.nw) (h : s.busy = false) : Written s (s.writeWord i v)

/-- An offset of the DMEM window reaches a word below NW (R61). -/
theorem State.windowWord_lt {s : State} {off i : Nat} (h : s.windowWord off = some i) : i < s.nw := by
  unfold State.windowWord at h
  split at h
  · cases h; omega
  · cases h

theorem State.whenIdle_written {s t : State} (h : s.busy = false → Written s t) : Written s (s.whenIdle t) := by
  unfold State.whenIdle
  cases hb : s.busy with
  | true => exact .error _ (.inr ⟨.inl rfl, hb⟩)
  | false => exact h hb

theorem State.writeRegister_written (s : State) (off : Nat) (v : Word) : Written s (s.writeRegister off v) := by
  unfold State.writeRegister
  split
  · exact .ctrl _
  split
  · exact .status v
  split
  · cases hb : s.busy with
    | true => exact .error _ (.inr ⟨.inr rfl, hb⟩)
    | false => exact .accepted v hb
  split
  · exact State.whenIdle_written fun h => .src _ h
  split
  · exact State.whenIdle_written fun h => .dst _ h
  split
  · exact State.whenIdle_written fun h => .stride _ h
  · exact .ignored

theorem State.hostWrite_written (s : State) (w : Width) (off : Nat) (v : Word) : Written s (s.hostWrite w off v) := by
  unfold State.hostWrite
  split
  · split
    · next i hi => exact State.whenIdle_written fun h => .word i v (State.windowWord_lt hi) h
    · exact State.writeRegister_written s off v
  · exact .error _ (.inl rfl)

/-- A host step that answers a next state: a read with its data logged, a write, or a reset (R329). -/
theorem hostStep_cases {s t : State} {x : Input} {rest : List Input} (h : hostStep s x rest = .next t) :
    (∃ w off, x = .read w off ∧ off < apertureBytes ∧
      t = { ((s.takeInput rest).hostRead w off).2 with
            readData := ((s.takeInput rest).hostRead w off).1 :: ((s.takeInput rest).hostRead w off).2.readData }) ∨
    (∃ w off v, x = .write w off v ∧ off < apertureBytes ∧ t = (s.takeInput rest).hostWrite w off v) ∨
    (x = .reset ∧ t = (s.takeInput rest).platformReset) := by
  cases x with
  | read w off =>
    simp only [hostStep] at h
    split at h
    · next ho => cases h; exact .inl ⟨w, off, rfl, ho, rfl⟩
    · cases h
  | write w off v =>
    simp only [hostStep] at h
    split at h
    · next ho => cases h; exact .inr (.inl ⟨w, off, v, rfl, ho, rfl⟩)
    · cases h
  | reset => cases h; exact .inr (.inr ⟨rfl, rfl⟩)

/-- A register offset is outside the DMEM window (R61). -/
theorem State.windowWord_register (s : State) {off : Nat} (h : off < windowBase) : s.windowWord off = none := by
  simp [State.windowWord]; omega

/-- The offset of DMEM word i reaches it (R61). -/
theorem State.windowWord_dmem (s : State) {i : Nat} (h : i < s.nw) : s.windowWord (windowBase + 4 * i) = some i := by
  simp [State.windowWord]; omega

/-- DMEM ends inside the aperture, since NW is at most 16384 (R8, R61). -/
theorem State.nw_le (s : State) : 64 ≤ s.nw ∧ s.nw ≤ 16384 := by
  unfold State.nw Params.nw Params.log2nw
  have h : s.params.nwStep.val ≤ 8 := by omega
  have lo : 2 ^ 6 ≤ 2 ^ (6 + s.params.nwStep.val) := Nat.pow_le_pow_right (by decide) (by omega)
  have hi : 2 ^ (6 + s.params.nwStep.val) ≤ 2 ^ 14 := Nat.pow_le_pow_right (by decide) (by omega)
  omega

/-- An aligned 32-bit write of a register offset (R34). -/
theorem hostStep_writeRegister (s : State) {off : Nat} (v : Word) (rest : List Input) (h : off < windowBase)
    (h4 : off % 4 = 0) : hostStep s (.write .bits32 off v) rest = .next ((s.takeInput rest).writeRegister off v) := by
  have ha : off < apertureBytes := Nat.lt_trans h (by decide)
  simp [hostStep, ha, State.hostWrite, accessOk, h4, State.windowWord_register _ h]

/-- An aligned 32-bit read of a register offset (R34). -/
theorem hostStep_readRegister (s : State) {off : Nat} (rest : List Input) (h : off < windowBase) (h4 : off % 4 = 0) :
    hostStep s (.read .bits32 off) rest =
      .next { s.takeInput rest with readData := (s.takeInput rest).readRegister off :: s.readData } := by
  have ha : off < apertureBytes := Nat.lt_trans h (by decide)
  simp [hostStep, ha, State.hostRead, accessOk, h4, State.windowWord_register _ h]

/-- An aligned 32-bit write of DMEM word i (R61). -/
theorem hostStep_writeDmem (s : State) {i : Nat} (v : Word) (rest : List Input) (h : i < s.nw) :
    hostStep s (.write .bits32 (windowBase + 4 * i) v) rest =
      .next ((s.takeInput rest).whenIdle ((s.takeInput rest).writeWord i v)) := by
  have hn := s.nw_le.2
  have ha : windowBase + 4 * i < apertureBytes := by simp only [windowBase, apertureBytes]; omega
  have h4 : (windowBase + 4 * i) % 4 = 0 := by simp only [windowBase]; omega
  have hw := State.windowWord_dmem (s.takeInput rest) (i := i) h
  simp only [hostStep, if_pos ha, State.hostWrite, accessOk, h4, hw]; simp

/-- An aligned 32-bit read of DMEM word i (R61). -/
theorem hostStep_readDmem (s : State) {i : Nat} (rest : List Input) (h : i < s.nw) :
    hostStep s (.read .bits32 (windowBase + 4 * i)) rest =
      (let t := s.takeInput rest
       if s.busy then .next { t.signalError .hostbusy with readData := 0#32 :: s.readData }
       else .next { t with readData := s.readWord i :: s.readData }) := by
  have hn := s.nw_le.2
  have ha : windowBase + 4 * i < apertureBytes := by simp only [windowBase, apertureBytes]; omega
  have h4 : (windowBase + 4 * i) % 4 = 0 := by simp only [windowBase]; omega
  have hw := State.windowWord_dmem (s.takeInput rest) (i := i) h
  have hr : (s.takeInput rest).readWord i = s.readWord i := State.readWord_congr rfl rfl i
  simp only [hostStep, if_pos ha, State.hostRead, accessOk, h4, hw, hr]
  have hb : (s.takeInput rest).busy = s.busy := rfl
  rw [hb]
  cases s.busy <;> rfl

/-- An access that is not an aligned 32-bit one, anywhere in the aperture (R63, R285). -/
theorem hostStep_badWrite (s : State) {w : Width} {off : Nat} (v : Word) (rest : List Input) (ha : off < apertureBytes)
    (h : accessOk w off = false) : hostStep s (.write w off v) rest = .next ((s.takeInput rest).signalError .bus) := by
  simp [hostStep, ha, State.hostWrite, h]

theorem hostStep_badRead (s : State) {w : Width} {off : Nat} (rest : List Input) (ha : off < apertureBytes)
    (h : accessOk w off = false) :
    hostStep s (.read w off) rest = .next { (s.takeInput rest).signalError .bus with readData := 0#32 :: s.readData } := by
  simp [hostStep, ha, State.hostRead, h]

/-! ## The step -/

/-- On the engine's turn the step is the engine's (R330). -/
theorem step_engine {s : State} {c : Word} (hp : s.pending = some c) (ht : s.engineTurn) : step s = engineStep c s := by
  unfold step nextStep
  rw [hp]
  cases hi : s.inputs with
  | nil => rfl
  | cons x rest =>
    rcases ht with hd | hn
    · simp [hd]
    · simp [hi] at hn

/-- On the outside world's turn the step is its next input's (R330). -/
theorem step_host {s : State} {x : Input} {rest : List Input} (hi : s.inputs = x :: rest)
    (ht : s.pending = none ∨ s.delay ≠ 0) : step s = hostStep s x rest := by
  unfold step nextStep
  rw [hi]
  cases hp : s.pending with
  | none => rfl
  | some c =>
    rcases ht with hn | hd
    · simp [hp] at hn
    · simp [hd]

/-- With nothing pending and no input the block idles (R333). -/
theorem step_idle {s : State} (hp : s.pending = none) (hi : s.inputs = []) : step s = .next s := by
  unfold step nextStep
  rw [hp, hi]

/-- Everything a step can be: the engine's, the outside world's, or idling (R330). -/
theorem step_cases (s : State) :
    (∃ c, s.pending = some c ∧ s.engineTurn ∧ step s = engineStep c s) ∨
    (∃ x rest, s.inputs = x :: rest ∧ (s.pending = none ∨ s.delay ≠ 0) ∧ step s = hostStep s x rest) ∨
    (s.pending = none ∧ s.inputs = [] ∧ step s = .next s) := by
  cases hp : s.pending with
  | none =>
    cases hi : s.inputs with
    | nil => exact .inr (.inr ⟨rfl, rfl, step_idle hp hi⟩)
    | cons x rest => exact .inr (.inl ⟨x, rest, rfl, .inl rfl, step_host hi (.inl hp)⟩)
  | some c =>
    cases hi : s.inputs with
    | nil => exact .inl ⟨c, rfl, .inr hi, step_engine hp (.inr hi)⟩
    | cons x rest =>
      by_cases hd : s.delay = 0
      · exact .inl ⟨c, rfl, .inl hd, step_engine hp (.inl hd)⟩
      · exact .inr (.inl ⟨x, rest, rfl, .inr hd, step_host hi (.inr hd)⟩)

/-- One step of a run of the core. -/
theorem core_run_succ {s t : State} (h : step s = .next t) (k : Nat) :
    Sys2Proof.core.run (k + 1) s = Sys2Proof.core.run k t := by
  have h' : Sys2Proof.core.step s = .next t := h
  simp only [Host.Core.run, h']

theorem core_run_zero (s : State) : Sys2Proof.core.run 0 s = .next s := rfl

/-- The last step of a run of the core, whatever its outcome. -/
theorem core_run_one (s : State) : Sys2Proof.core.run 1 s = step s := by
  have h' : Sys2Proof.core.step s = step s := rfl
  simp only [Host.Core.run, h']
  cases step s <;> rfl

end Sys2Proof.Machine
end

