-- ==== Sys2Proof/Laws/PerInstr.lean ====
section
/-! SUPPORT. One law about each instruction as syntax: its command word carries the fixed bits of its row of the opcode map
(30_encoding.md R98), whatever its operands. -/

namespace Sys2Proof.Laws.TableRow

/-- The command word of `i` agrees with the match value of i's row under the row's mask (R98). -/
def Statement (i : Instr) : Prop := ∃ r ∈ opcodeMap, r.mnemonic = i.mnemonic ∧ encode i &&& r.mask = r.pattern

theorem setter_masked (op : BitVec 4) (imm : Half) :
    encodeS op imm &&& 0xFFFF0000#32 = op ++ 0#28 := by
  refine BitVec.eq_of_getLsbD_eq fun i hi => ?_
  rw [BitVec.getLsbD_and, encodeS, BitVec.getLsbD_append, BitVec.getLsbD_append, BitVec.getLsbD_append]
  interval_cases i <;> simp

theorem nop : Statement .nop := ⟨_, .head _, rfl, by decide⟩

theorem setsrc (imm : Half) : Statement (.setsrc imm) :=
  ⟨⟨"SETSRC", 0x10000000#32, 0xFFFF0000#32, false⟩, by simp [opcodeMap], rfl, (setter_masked 0x1#4 imm).trans (by decide)⟩

theorem setdst (imm : Half) : Statement (.setdst imm) :=
  ⟨⟨"SETDST", 0x20000000#32, 0xFFFF0000#32, false⟩, by simp [opcodeMap], rfl, (setter_masked 0x2#4 imm).trans (by decide)⟩

theorem setstr (imm : Half) : Statement (.setstr imm) :=
  ⟨⟨"SETSTR", 0x30000000#32, 0xFFFF0000#32, false⟩, by simp [opcodeMap], rfl, (setter_masked 0x3#4 imm).trans (by decide)⟩

theorem transform_masked (raw : Bool) (fam : Family) (sz : BitVec 3) (kind : BitVec 2) (dir : BitVec 1) :
    encodeT raw fam.bit sz kind dir &&& 0xFFFFFF07#32 = 0x4#4 ++ 0#25 ++ kind ++ dir := by
  revert raw fam sz kind dir
  intro raw fam
  cases raw <;> cases fam <;> decide

theorem fdct (sz : BitVec 3) (fam : Family) (raw : Bool) : Statement (.fdct sz fam raw) :=
  ⟨⟨"FDCT", 0x40000000#32, 0xFFFFFF07#32, true⟩, by simp [opcodeMap], rfl,
    (transform_masked raw fam sz 0#2 0#1).trans (by decide)⟩

theorem idct (sz : BitVec 3) (fam : Family) (raw : Bool) : Statement (.idct sz fam raw) :=
  ⟨⟨"IDCT", 0x40000001#32, 0xFFFFFF07#32, true⟩, by simp [opcodeMap], rfl,
    (transform_masked raw fam sz 0#2 1#1).trans (by decide)⟩

theorem fdst (sz : BitVec 3) (fam : Family) (raw : Bool) : Statement (.fdst sz fam raw) :=
  ⟨⟨"FDST", 0x40000002#32, 0xFFFFFF07#32, true⟩, by simp [opcodeMap], rfl,
    (transform_masked raw fam sz 1#2 0#1).trans (by decide)⟩

theorem idst (sz : BitVec 3) (fam : Family) (raw : Bool) : Statement (.idst sz fam raw) :=
  ⟨⟨"IDST", 0x40000003#32, 0xFFFFFF07#32, true⟩, by simp [opcodeMap], rfl,
    (transform_masked raw fam sz 1#2 1#1).trans (by decide)⟩

theorem identity_masked (sz : BitVec 3) (dir : BitVec 1) :
    encodeT false 0#1 sz 2#2 dir &&& 0xFFFFFFC7#32 = 0x8000000#29 ++ 2#2 ++ dir := by
  revert sz dir; decide

theorem fidt (sz : BitVec 3) : Statement (.fidt sz) :=
  ⟨⟨"FIDT", 0x40000004#32, 0xFFFFFFC7#32, true⟩, by simp [opcodeMap], rfl, (identity_masked sz 0#1).trans (by decide)⟩

theorem iidt (sz : BitVec 3) : Statement (.iidt sz) :=
  ⟨⟨"IIDT", 0x40000005#32, 0xFFFFFFC7#32, true⟩, by simp [opcodeMap], rfl, (identity_masked sz 1#1).trans (by decide)⟩

theorem permute_masked (sz : BitVec 3) (tbl : Table) (dir : BitVec 1) :
    encodeP sz tbl dir &&& 0xFFFFFFC5#32 = 0xA000000#29 ++ 0#2 ++ dir := by
  cases tbl <;> revert sz dir <;> decide

theorem permf (sz : BitVec 3) (tbl : Table) : Statement (.permf sz tbl) :=
  ⟨⟨"PERMF", 0x50000000#32, 0xFFFFFFC5#32, true⟩, by simp [opcodeMap], rfl, (permute_masked sz tbl 0#1).trans (by decide)⟩

theorem permi (sz : BitVec 3) (tbl : Table) : Statement (.permi sz tbl) :=
  ⟨⟨"PERMI", 0x50000001#32, 0xFFFFFFC5#32, true⟩, by simp [opcodeMap], rfl, (permute_masked sz tbl 1#1).trans (by decide)⟩

end Sys2Proof.Laws.TableRow
end

