-- ==== Sys2Proof/Tests/Slice0.lean ====
section
/-! SUPPORT. The model's own tests. Every expected value is the spec's: the encodings of 30_encoding.md, the tables of
42_permutation.md R194, and the vectors of 95_test_vectors.md, with the section named at each. The last part shows, for each
obligation with hypotheses, a concrete state and operands that meet them. -/

open Sys2Proof Sys2Proof.Machine

namespace Sys2Proof.Tests

/-! ## Helpers -/

/-- A vector of signed numbers. -/
def ws (l : List Int) : List Word := l.map (BitVec.ofInt 32)

/-- The signed numbers of a vector. -/
def zs (l : List Word) : List Int := l.map BitVec.toInt

/-- The reset state with words placed from DMEM word `base`, and the address registers set. -/
def loaded (base : Nat) (l : List Int) (src dst stride : Half) : State :=
  { State.reset with
    dmem := Memory.writeWords [] ((List.range l.length).map (base + ·)) (ws l)
    src := src
    dst := dst
    stride := stride }

/-- The reset state with a command pending and inputs to come. -/
def running (c : Word) (delay : Nat) (inputs : List Input) : State :=
  { State.reset with pending := some c, lastCmd := c, delay := delay, inputs := inputs }

/-- The reset state with inputs to come. -/
def waiting (inputs : List Input) : State := { State.reset with inputs := inputs }

/-- A property of the next state, false of any other outcome. -/
def onNext (o : Host.Outcome State Fault Refusal) (p : State → Bool) : Bool :=
  match o with
  | .next t => p t
  | .fault _ => false
  | .refused _ => false

/-- DMEM words `base` .. after one step that runs the command word `c`, and what `p` says of the state then. -/
def runs (s : State) (c : Nat) (base : Nat) (l : List Int) (p : State → Bool) : Bool :=
  onNext (step (s.withFetchWord 32 c)) (fun t => zs ((List.range l.length).map (fun i => t.readWord (base + i))) == l && p t)

/-! ## WellFormed: each check refuses an ill-formed term (R96) -/

theorem test_wf_refuses_fdct : ¬ (Instr.fdct 5#3 .precise false).WellFormed := by decide
theorem test_wf_refuses_idct : ¬ (Instr.idct 6#3 .flattened false).WellFormed := by decide
theorem test_wf_refuses_fdst : ¬ (Instr.fdst 7#3 .precise true).WellFormed := by decide
theorem test_wf_refuses_idst : ¬ (Instr.idst 5#3 .flattened true).WellFormed := by decide
theorem test_wf_refuses_fidt : ¬ (Instr.fidt 5#3).WellFormed := by decide
theorem test_wf_refuses_iidt : ¬ (Instr.iidt 6#3).WellFormed := by decide
theorem test_wf_refuses_permf : ¬ (Instr.permf 7#3 .dct).WellFormed := by decide
theorem test_wf_refuses_permi : ¬ (Instr.permi 5#3 .dst).WellFormed := by decide
theorem test_wf_accepts_largest : (Instr.fdct 4#3 .flattened true).WellFormed ∧ (Instr.permi 4#3 .dst).WellFormed := by decide

/-! ## Decoding: one word per command, written bit by bit from R92 to R95 -/

/-- Format Z (R92). -/
theorem test_decode_nop : decode 0b00000000000000000000000000000000#32 = .command .nop := by decide
/-- OP = 0001, zeros, IMM16 (R93). -/
theorem test_decode_setsrc : decode 0b00010000000000001000000000000001#32 = .command (.setsrc 0x8001#16) := by decide
theorem test_decode_setdst : decode 0b00100000000000000111111111111110#32 = .command (.setdst 0x7FFE#16) := by decide
theorem test_decode_setstr : decode 0b00110000000000001111111111111111#32 = .command (.setstr 65535#16) := by decide
/-- OP = 0100, zeros, RAW = 1, FAM = 0, SZ = 001, KIND = 00, DIR = 0 (R94). -/
theorem test_decode_fdct : decode 0b01000000000000000000000010001000#32 = .command (.fdct 1#3 .precise true) := by decide
/-- RAW = 0, FAM = 1, SZ = 100, KIND = 00, DIR = 1. -/
theorem test_decode_idct : decode 0b01000000000000000000000001100001#32 = .command (.idct 4#3 .flattened false) := by decide
/-- RAW = 0, FAM = 0, SZ = 011, KIND = 01, DIR = 0. -/
theorem test_decode_fdst : decode 0b01000000000000000000000000011010#32 = .command (.fdst 3#3 .precise false) := by decide
/-- RAW = 1, FAM = 1, SZ = 100, KIND = 01, DIR = 1: 0x4000_00E3 (95, section 8). -/
theorem test_decode_idst : decode 0b01000000000000000000000011100011#32 = .command (.idst 4#3 .flattened true) := by decide
/-- SZ = 010, KIND = 10, DIR = 0. -/
theorem test_decode_fidt : decode 0b01000000000000000000000000010100#32 = .command (.fidt 2#3) := by decide
theorem test_decode_iidt : decode 0b01000000000000000000000000000101#32 = .command (.iidt 0#3) := by decide
/-- OP = 0101, zeros, SZ = 001, 0, TBL = 1, DIR = 0: 0x5000_000A (R95; 95, section 8). -/
theorem test_decode_permf : decode 0b01010000000000000000000000001010#32 = .command (.permf 1#3 .dst) := by decide
theorem test_decode_permi : decode 0b01010000000000000000000000100011#32 = .command (.permi 4#3 .dst) := by decide

/-- The illegal words of 95, section 8. -/
theorem test_decode_illegal :
    decode 0x00000001#32 = .illegal .mustBeZero ∧ decode 0x1001FFFF#32 = .illegal .mustBeZero ∧
    decode 0x40000006#32 = .illegal .reservedKind ∧ decode 0x40000028#32 = .illegal .reservedSize ∧
    decode 0x40000038#32 = .illegal .reservedSize ∧ decode 0x40000044#32 = .illegal .identityVariant ∧
    decode 0x40000084#32 = .illegal .identityVariant ∧ decode 0x40000100#32 = .illegal .mustBeZero ∧
    decode 0x400000E7#32 = .illegal .reservedKind ∧ decode 0x50000004#32 = .illegal .mustBeZero ∧
    decode 0x50000040#32 = .illegal .mustBeZero ∧ decode 0x60000000#32 = .illegal .reservedOp ∧
    decode 0xF0000000#32 = .illegal .reservedOp := by decide

/-- The encoder's words for the encodings of 95, sections 5 to 7. -/
theorem test_encode :
    encode (.setsrc 5000#16) = 0x10001388#32 ∧ encode (.setstr 8#16) = 0x30000008#32 ∧
    encode (.fdct 0#3 .precise false) = 0x40000000#32 ∧ encode (.idct 1#3 .precise false) = 0x40000009#32 ∧
    encode (.fidt 0#3) = 0x40000004#32 ∧ encode (.permi 1#3 .dct) = 0x50000009#32 := by decide

/-! ## Primitives (40_primitives.md R140; 95, section 2) -/

theorem test_mulr :
    mulr 1#32 8388608 = 1 ∧ mulr (-1#32) 8388608 = 0 ∧ mulr 3#32 8388608 = 2 ∧ mulr (-3#32) 8388608 = -1 ∧
    mulr 100#32 (romT 64) = 41 ∧ mulr 0x7FFFFFFF#32 16777215 = 2147483519 ∧
    mulr 0x80000000#32 16777215 = -2147483520 := by decide

theorem test_refl_precise :
    reflP 64 100#32 0#32 = ⟨71#32, 71#32, false⟩ ∧ reflP 64 0#32 100#32 = ⟨70#32, -71#32, false⟩ ∧
    reflP 32 1000#32 0#32 = ⟨924#32, 383#32, false⟩ ∧ reflP 1 0#32 1000#32 = ⟨12#32, -1000#32, false⟩ ∧
    reflP 48 0#32 4#32 = ⟨2#32, -3#32, false⟩ ∧
    reflP 64 0x7FFFFFFF#32 0x7FFFFFFF#32 = ⟨BitVec.ofInt 32 (-1779033718), 1257966775#32, true⟩ := by decide

theorem test_refl_flattened :
    reflF 64 0#32 100#32 = ⟨71#32, -71#32, false⟩ ∧ ireflF 64 1#32 (-1#32) = ⟨0#32, 1#32, false⟩ ∧
    ireflP 64 1#32 (-1#32) = ⟨0#32, 2#32, false⟩ ∧
    reflF 64 0x7FFFFFFF#32 0x7FFFFFFF#32 = ⟨BitVec.ofInt 32 (-1257966819), -74#32, true⟩ := by decide

/-- The ROM has 64 entries; its first and last (R128). -/
theorem test_rom : rom.length = 64 ∧ romT 1 = 102945 ∧ romS 1 = 205882 ∧ romT 64 = 6949350 ∧ romS 64 = 11863283 := by decide

/-! ## Permutation tables (42_permutation.md R194) -/

theorem test_perm_tables :
    permC2 2 = [0, 2, 1, 3] ∧ permS4 2 = [0, 1, 3, 2] ∧ permC2 3 = [0, 4, 2, 6, 1, 3, 7, 5] ∧
    permS4 3 = [0, 3, 1, 5, 7, 4, 6, 2] ∧ permC2 4 = [0, 8, 4, 12, 2, 6, 14, 10, 1, 7, 3, 11, 15, 9, 13, 5] ∧
    permS4 4 = [0, 7, 3, 11, 1, 5, 13, 9, 15, 8, 12, 4, 14, 10, 2, 6] := by decide

theorem test_perm_inverses :
    (List.range 8).map (slotOf (permC2 3)) = [0, 4, 2, 5, 1, 7, 3, 6] ∧
    (List.range 8).map (slotOf (permS4 3)) = [0, 2, 7, 1, 5, 3, 6, 4] := by decide

/-- permS4_64's first 16 entries and its last 8. -/
theorem test_perm_largest :
    (permS4 6).take 16 = [0, 31, 15, 47, 7, 23, 55, 39, 3, 27, 11, 43, 59, 35, 51, 19] ∧
    (permS4 6).drop 56 = [2, 30, 14, 46, 6, 22, 54, 38] := by decide +kernel

/-! ## Commands, one step each -/

/-- NOP on the reset state: CMDCNT = 1, STATUS = 2 (95, section 7). -/
theorem test_nop : onNext (step (State.reset.withFetchWord 32 0)) (fun t => t.cmdcnt == 1#32 && t.status == 2#32) = true := by
  decide

/-- SETSRC 5000, with no range check (95, section 7). -/
theorem test_setsrc : onNext (step (State.reset.withFetchWord 32 0x10001388)) (fun t => t.src == 5000#16 && !t.err) = true := by
  decide

theorem test_setdst : onNext (step (State.reset.withFetchWord 32 0x20000040)) (fun t => t.dst == 64#16) = true := by decide

theorem test_setstr : onNext (step (State.reset.withFetchWord 32 0x3000FFFF)) (fun t => t.stride == 65535#16) = true := by
  decide

/-- The source's golden vector (95, section 1.1). -/
theorem test_fdct : runs (loaded 0 [4, 0, 0, 0] 0#16 16#16 1#16) 0x40000000 16 [2, 3, 2, 1] (fun t => !t.ovfFlag) = true := by
  decide +kernel

/-- FDCT.4 of [2^31 − 1]×4 wraps: OVF = 1, ERR = 0, the output written (95, sections 3.1 and 10). -/
theorem test_fdct_overflow :
    runs (loaded 0 [2147483647, 2147483647, 2147483647, 2147483647] 0#16 16#16 1#16) 0x40000000 16
      [-1994866695, 1643612819, -1257966787, -680806670] (fun t => t.status == 0xA#32) = true := by decide +kernel

/-- IDCT.4 with STRIDE = 0: the last write wins (95, section 9). -/
theorem test_idct_stride0 : runs (loaded 0 [0, 1000, 0, 0] 0#16 8#16 0#16) 0x40000001 8 [-653] (fun t => !t.err) = true := by
  decide +kernel

/-- IDCT.8.F (95, section 3.1). -/
theorem test_idct :
    runs (loaded 0 [10, -6, 0, -1, 0, 0, 0, 1] 0#16 16#16 1#16) 0x40000049 16 [0, 1, 3, 3, 4, 4, 6, 7] (fun t => !t.ovfFlag) =
      true := by decide +kernel

/-- FDST.8.F.R (95, section 3.3). -/
theorem test_fdst_raw :
    runs (loaded 0 [3, -1, 4, 1, -5, 9, 2, -6] 0#16 16#16 1#16) 0x400000CA 16 [1, 6, 3, 1, 1, -8, 8, -3] (fun t => !t.ovfFlag) =
      true := by decide +kernel

/-- FDST.16 (95, section 3.1). -/
theorem test_fdst :
    runs (loaded 0 [0, 1, 2, 3, 4, 5, 6, 7, 8, 9, 10, 11, 12, 13, 14, 15] 0#16 16#16 1#16) 0x40000012 16
      [36, -5, 1, 0, 0, -1, -1, 0, -1, 0, 0, 0, -2, 0, -1, -1] (fun t => !t.ovfFlag) = true := by decide +kernel

/-- IDST.8 of the last unit vector (95, section 3.2). -/
theorem test_idst :
    runs (loaded 0 [0, 0, 0, 0, 0, 0, 0, 1000] 0#16 16#16 1#16) 0x4000000B 16 [498, -479, 441, -386, 317, -235, 145, -49]
      (fun t => !t.ovfFlag) = true := by decide +kernel

/-- FIDT.4 with STRIDE = 2 (95, section 6). -/
theorem test_fidt :
    runs (loaded 0 [1, 9, 2, 9, 3, 9, 4, 9] 0#16 16#16 2#16) 0x40000004 16 [1, 2, 3, 4] (fun t => !t.ovfFlag) = true := by
  decide +kernel

/-- IIDT.4 with STRIDE = 8 (95, section 6). -/
theorem test_iidt :
    runs (loaded 16 [1, 2, 3, 4] 16#16 32#16 8#16) 0x40000005 56 [4]
      (fun t => t.readWord 32 == 1#32 && t.readWord 40 == 2#32 && t.readWord 48 == 3#32) = true := by decide +kernel

/-- PERMF.DST.8 and PERMI.DCT.8 (95, section 5). -/
theorem test_permf :
    runs (loaded 0 [10, 20, 30, 40, 50, 60, 70, 80] 0#16 16#16 1#16) 0x5000000A 16 [10, 30, 80, 20, 60, 40, 70, 50]
      (fun t => !t.ovfFlag) = true := by decide +kernel

theorem test_permi :
    runs (loaded 0 [10, 20, 30, 40, 50, 60, 70, 80] 0#16 16#16 1#16) 0x50000009 16 [10, 50, 30, 70, 20, 40, 80, 60]
      (fun t => !t.ovfFlag) = true := by decide +kernel

/-- RANGE: SRC = 4094, STRIDE = 1, FDCT.4 (R283; 95, section 9). -/
theorem test_range :
    onNext (step ((loaded 0 [] 4094#16 0#16 1#16).withFetchWord 32 0x40000000))
      (fun t => t.status == 0x26#32 && t.dmem == [] && t.cmdcnt == 1#32) = true := by decide

/-- SRC = 4092 is legal: the gather list ends at 4095 (95, section 9). -/
theorem test_range_edge :
    runs (loaded 4092 [7, 7, 7, 7] 4092#16 0#16 1#16) 0x40000000 0 [14, 0, 0, 0] (fun t => !t.err) = true := by decide +kernel

/-- SRC = STRIDE = 65535, FDCT.64: addresses are compared with no truncation (95, section 9). -/
theorem test_range_untruncated :
    onNext (step ((loaded 0 [] 65535#16 0#16 65535#16).withFetchWord 32 0x40000020)) (fun t => t.status == 0x26#32) = true := by
  decide +kernel

/-- ILLEGAL on the reset state (95, section 10). -/
theorem test_illegal :
    onNext (step (State.reset.withFetchWord 32 0x40000006))
      (fun t => t.status == 0x16#32 && t.lastCmd == 0x40000006#32 && t.cmdcnt == 1#32) = true := by decide

/-- A step runs the placed word as its command, also from the reset state, where DMEM is unwritten. -/
theorem test_step_is_exec :
    step (State.reset.withFetchWord 32 0x40000041) =
      exec (.idct 0#3 .flattened false) (State.reset.withFetchWord 32 0x40000041) := by rfl

/-- The host's table-word reader reads what the decoder reads, and nothing from a reserved word. -/
theorem test_table_word :
    decodeTableWord 32 0x5000001B = some (.permi 3#3 .dst) ∧ decodeTableWord 32 0x5000002B = none := by decide

/-- ILLEGAL is checked before RANGE (R289, R295). -/
theorem test_illegal_before_range :
    onNext (step ((loaded 0 [] 65535#16 0#16 1#16).withFetchWord 32 0x40000028)) (fun t => t.ecode == .illegal) = true := by
  decide

/-! ## The host port (95, section 10) -/

/-- A 16-bit write is a BUS error, and changes nothing else. -/
theorem test_bus : onNext (step (waiting [.write .bits16 0x08 0xF#32])) (fun t => t.status == 0x44#32 && t.ctrl == 0#4) = true := by
  decide

theorem test_bus_read :
    onNext (step (waiting [.read .bits32 0x02])) (fun t => t.readData == [0#32] && t.ecode == .bus) = true := by decide

/-- While BUSY = 1: OVERRUN, HOSTBUSY, and a register read that is allowed. -/
theorem test_overrun :
    onNext (step (running 0#32 1 [.write .bits32 0x10 0x10000100#32]))
      (fun t => t.status == 0x35#32 && t.pending == some 0#32 && t.lastCmd == 0#32) = true := by decide

theorem test_hostbusy :
    onNext (step (running 0#32 1 [.read .bits32 0x10000])) (fun t => t.status == 0x55#32 && t.readData == [0#32]) = true := by
  decide

theorem test_read_while_busy :
    onNext (step (running 0#32 1 [.read .bits32 0x1C])) (fun t => t.readData == [1#32] && !t.err) = true := by decide

/-- Reads of ID, CFG and reserved offsets; writes that ignore high bits. -/
theorem test_registers :
    State.reset.readRegister 0x00 = 0x54584501#32 ∧ State.reset.readRegister 0x04 = 0x0120180C#32 ∧
    State.reset.readRegister 0x24 = 0#32 ∧ State.reset.readRegister 0x40 = 0#32 ∧
    (State.reset.writeRegister 0x14 0x12345678#32).src = 0x5678#16 ∧
    (State.reset.writeRegister 0x08 0xFFFFFFFF#32).readRegister 0x08 = 0xF#32 := by decide

/-- HW 0x0C, 6 clears DONE, ERR and ECODE; with CTRL = 6 an error drives IRQ. -/
theorem test_status_write :
    ({ State.reset with done := true, err := true, ecode := .illegal }.writeStatus 6#32).status = 0#32 ∧
    { State.reset with done := true, err := true, ecode := .illegal, ctrl := 6#4 }.status = 0x116#32 := by decide

/-- An access outside the aperture is refused by name. -/
theorem test_outside_aperture : step (waiting [.read .bits32 0x20000]) = .refused .outsideAperture := by rfl

/-- The last aligned offset of the aperture is reserved: it reads 0 (R61). -/
theorem test_aperture_end :
    onNext (step (waiting [.read .bits32 0x1FFFC])) (fun t => t.readData == [0#32] && !t.err) = true := by decide

/-- A reset abandons the pending command: nothing is counted, and the block is idle (95, section 11). -/
theorem test_reset_abandons :
    onNext (step (running 0x40000000#32 1 [.reset])) (fun t => t.cmdcnt == 0#32 && t.status == 0#32 && t.stride == 1#16) = true := by
  decide

/-- The block idles after reset. -/
theorem test_reset_idles : step State.reset = .next State.reset := by rfl

/-! ## Witnesses: the hypotheses of each obligation are met, at boundary values of their ranges -/

/-- SRC and DST so that a gather and a scatter of size 64 end at the last DMEM word, 4095. -/
def edge64 : State := loaded 4032 [1, -2, 3] 4032#16 4032#16 1#16

/-- SRC + 3·STRIDE = 4095, with a stride above 1. -/
def edge4 : State := loaded 0 [4, 0, 0, 0] 0#16 4092#16 1365#16

/-- Contiguous source 4092 .. 4095 and a destination list that ends at 4095. -/
def edgeInv4 : State := loaded 4092 [4, 0, 0, 0] 4092#16 0#16 1365#16

/-- Stride 0 on an inverse command: all elements have one address. -/
def still4 : State := loaded 4092 [4, 0, 0, 0] 4092#16 4095#16 0#16

theorem test_witness_EncodedCommandDecodesBack :
    (Instr.idst 4#3 .flattened true).WellFormed ∧ (Instr.permf 0#3 .dct).WellFormed ∧ (Instr.setsrc 65535#16).WellFormed := by
  decide

theorem test_witness_DecodedCommandHasOneWord :
    decode 0x400000E3#32 = .command (.idst 4#3 .flattened true) ∧ decode 0#32 = .command .nop := by decide

theorem test_witness_OpcodeMapSelectsTheCommand :
    (∃ r ∈ opcodeMap, r.mnemonic = "PERMI" ∧ 0x50000023#32 &&& r.mask = r.pattern ∧
      (r.sized = true → ((0x50000023#32).extractLsb' 3 3).toNat ≤ 4)) ∧
    (∃ i, decode 0x50000023#32 = .command i ∧ i.mnemonic = "PERMI") :=
  ⟨by decide, .permi 4#3 .dst, by decide, by decide⟩

/-- One word for each of R100's clauses, and the one NOP. -/
theorem test_witness_IllegalWordsAreTheReservedOnes :
    6 ≤ ((0x60000000#32).extractLsb' 28 4).toNat ∧
    ((0x00000001#32).extractLsb' 28 4).toNat = 0 ∧ (0x00000001#32).extractLsb' 0 28 ≠ 0#28 ∧
    ((0x30010000#32).extractLsb' 28 4).toNat = 3 ∧ (0x30010000#32).extractLsb' 16 12 ≠ 0#12 ∧
    (0x40000100#32).extractLsb' 8 20 ≠ 0#20 ∧ (0x40000006#32).extractLsb' 1 2 = 3#2 ∧
    5 ≤ ((0x40000028#32).extractLsb' 3 3).toNat ∧ (0x40000045#32).extractLsb' 1 2 = 2#2 ∧ (0x40000045#32).getLsbD 6 = true ∧
    (0x40000085#32).getLsbD 7 = true ∧ (0x50000040#32).extractLsb' 6 22 ≠ 0#22 ∧ (0x50000004#32).getLsbD 2 = true ∧
    5 ≤ ((0x50000038#32).extractLsb' 3 3).toNat ∧ (∃ why, decode 0x50000004#32 = .illegal why) ∧
    decode 0x00000000#32 = .command .nop :=
  ⟨by decide, by decide, by decide, by decide, by decide, by decide, by decide, by decide, by decide, by decide, by decide,
    by decide, by decide, by decide, ⟨_, rfl⟩, by decide⟩

/-- The engine's turn, by a delay that has run out and by an empty input list. -/
theorem test_witness_StepRunsTheDecodedCommand :
    (∃ (s : State) (c : Word) (i : Instr), s.pending = some c ∧ s.engineTurn ∧ s.inputs ≠ [] ∧ decode c = .command i) ∧
    (∃ (s : State) (c : Word) (i : Instr), s.pending = some c ∧ s.engineTurn ∧ s.delay ≠ 0 ∧ decode c = .command i) :=
  ⟨⟨running 0x40000000#32 0 [.reset], _, .fdct 0#3 .precise false, rfl, .inl rfl, by decide, by decide⟩,
    ⟨running 0x40000000#32 7 [], _, .fdct 0#3 .precise false, rfl, .inr rfl, by decide, by decide⟩⟩

theorem test_witness_IllegalWordCompletesWithError :
    ∃ (s : State) (c : Word) (why : IllegalReason), s.pending = some c ∧ s.engineTurn ∧ decode c = .illegal why :=
  ⟨running 0x40000006#32 0 [], _, .reservedKind, rfl, .inl rfl, by decide⟩

theorem test_witness_CommandWriteIsAccepted :
    ∃ (s : State) (c : Word) (rest : List Input), s.inputs = .write .bits32 0x10 c :: rest ∧ s.pending = none :=
  ⟨waiting [.write .bits32 0x10 0x40000008#32], _, _, rfl, rfl⟩

theorem test_witness_CommandWriteWhileBusyIsDropped :
    ∃ (s : State) (c v : Word) (rest : List Input),
      s.inputs = .write .bits32 0x10 v :: rest ∧ s.pending = some c ∧ s.delay ≠ 0 :=
  ⟨running 0#32 1 [.write .bits32 0x10 0x40000008#32], _, _, _, rfl, rfl, by decide⟩

theorem test_witness_WrittenCommandRuns :
    ∃ (s : State) (i : Instr) (rest : List Input),
      i.WellFormed ∧ s.inputs = .write .bits32 0x10 (encode i) :: rest ∧ s.pending = none ∧ s.latency.headD 0 = 0 :=
  ⟨{ waiting [.write .bits32 0x10 0x400000E3#32, .reset] with latency := [0, 5] }, .idst 4#3 .flattened true, [.reset],
    by decide, by decide, rfl, rfl⟩

/-- With a delay shorter than the inputs, and with one that outlasts them. -/
theorem test_witness_PendingCommandCompletes :
    (∃ (s : State) (c : Word), s.pending = some c ∧ s.inputsOk ∧ Input.reset ∉ s.inputs ∧ 0 < s.delay ∧
      s.delay < s.inputs.length) ∧
    (∃ (s : State) (c : Word), s.pending = some c ∧ s.inputsOk ∧ Input.reset ∉ s.inputs ∧ s.inputs.length < s.delay) :=
  ⟨⟨running 0x40000006#32 1 [.read .bits32 0x1FFFC, .write .bits8 0 0#32], _, rfl,
      by show ∀ x ∈ _, _; decide, by decide, by decide, by decide⟩,
    ⟨running 0x40000006#32 5 [.write .bits32 0x10 0#32], _, rfl, by show ∀ x ∈ _, _; decide, by decide, by decide⟩⟩

/-- An engine step, a reset and another host input. -/
theorem test_witness_CountIsOfCompletions :
    (∃ s t : State, ∃ c, step s = .next t ∧ s.pending = some c ∧ s.engineTurn) ∧
    (∃ s t : State, step s = .next t ∧ s.hostTurn ∧ s.inputs = [.reset]) ∧
    (∃ s t : State, step s = .next t ∧ s.hostTurn ∧ s.inputs = [.write .bits32 0x20 5#32]) :=
  ⟨⟨running 0#32 0 [], _, _, rfl, rfl, .inl rfl⟩, ⟨running 0#32 1 [.reset], _, rfl, .inr (by decide), rfl⟩,
    ⟨waiting [.write .bits32 0x20 5#32], _, rfl, .inl rfl, rfl⟩⟩

theorem test_witness_BusyStateIsFrozenForTheHost :
    ∃ (s t : State) (c : Word) (x : Input) (rest : List Input),
      s.pending = some c ∧ s.delay ≠ 0 ∧ s.inputs = x :: rest ∧ x ≠ .reset ∧ step s = .next t :=
  ⟨running 0#32 1 [.write .bits32 0x10000 7#32], _, _, _, _, rfl, by decide, rfl, by decide, rfl⟩

theorem test_witness_StepNeverStopsInTheAperture : ∃ s : State, s.inputsOk ∧ s.inputs ≠ [] :=
  ⟨waiting [.read .burst 0x1FFFF, .write .bits64 0 0#32, .reset], by show ∀ x ∈ _, _; decide, by decide⟩

/-- The invariant in a busy state with an error recorded and memory written, and a step from it. -/
theorem test_witness_EveryStepKeepsTheInvariant : ∃ s t : State, s.Inv ∧ s.dmem ≠ [] ∧ s.err = true ∧ step s = .next t :=
  ⟨{ edge4 with pending := some 0x40000000#32, lastCmd := 0x40000000#32, err := true, ecode := .bus }, _,
    ⟨by unfold State.memOk; decide +kernel, by unfold State.errOk; decide, by intro c hc; exact ⟨by simpa using hc, rfl⟩⟩,
    by decide +kernel, rfl, rfl⟩

theorem test_witness_ResetAbandonsThePendingCommand :
    (∃ (s : State) (rest : List Input), s.inputs = .reset :: rest ∧ s.hostTurn ∧ s.busy = true) ∧
    (∃ (s : State) (rest : List Input), s.inputs = .reset :: rest ∧ s.hostTurn ∧ s.busy = false) :=
  ⟨⟨running 0x40000000#32 1 [.reset], _, rfl, .inr (by decide), by decide⟩, ⟨waiting [.reset], _, rfl, .inl rfl, by decide⟩⟩

/-- The forward transforms: size 64 ending at the last word, and size 4 with the largest stride that fits. -/
theorem test_witness_FdctWritesTheForwardDct :
    (sizeOk 4#3 = true ∧ ∀ i < size 4#3, edge64.src.toNat + i * edge64.stride.toNat < edge64.nw ∧ edge64.dst.toNat + i < edge64.nw) ∧
    (sizeOk 0#3 = true ∧ ∀ i < size 0#3, edge4.src.toNat + i * edge4.stride.toNat < edge4.nw ∧ edge4.dst.toNat + i < edge4.nw) := by
  decide +kernel

/-- The inverse transforms, with a stride and with stride 0, where only the last element's address is claimed. -/
theorem test_witness_IdctWritesTheInverseDct :
    (sizeOk 0#3 = true ∧ (∀ i < size 0#3, edgeInv4.src.toNat + i < edgeInv4.nw ∧
      edgeInv4.dst.toNat + i * edgeInv4.stride.toNat < edgeInv4.nw) ∧ edgeInv4.stride ≠ 0#16) ∧
    (sizeOk 0#3 = true ∧ (∀ i < size 0#3, still4.src.toNat + i < still4.nw ∧
      still4.dst.toNat + i * still4.stride.toNat < still4.nw) ∧ still4.stride = 0#16 ∧ 3 = size 0#3 - 1) := by
  decide +kernel

theorem test_witness_FdstWritesTheForwardDst :
    sizeOk 4#3 = true ∧
      ∀ i < size 4#3, edge64.src.toNat + i * edge64.stride.toNat < edge64.nw ∧ edge64.dst.toNat + i < edge64.nw := by
  decide +kernel

theorem test_witness_IdstWritesTheInverseDst :
    sizeOk 4#3 = true ∧
      ∀ i < size 4#3, edge64.src.toNat + i < edge64.nw ∧ edge64.dst.toNat + i * edge64.stride.toNat < edge64.nw := by
  decide +kernel

theorem test_witness_IdentityCommandsCopy :
    (∀ i < size 0#3, edge4.src.toNat + i * edge4.stride.toNat < edge4.nw ∧ edge4.dst.toNat + i < edge4.nw) ∧
    (∀ i < size 0#3, still4.src.toNat + i < still4.nw ∧ still4.dst.toNat + i * still4.stride.toNat < still4.nw) := by
  decide +kernel

theorem test_witness_PermutationCommandsReorder :
    sizeOk 4#3 = true ∧ ∀ i < size 4#3, edge64.src.toNat + i < edge64.nw ∧ edge64.dst.toNat + i < edge64.nw := by
  decide +kernel

/-- One address too far: in the gather list, and in the scatter list. -/
theorem test_witness_RangeErrorChangesNothingElse :
    (Instr.fdct 4#3 .precise false).transferShape = some (.fwd, 4#3) ∧ (Instr.fdct 4#3 .precise false).WellFormed ∧
    (∃ k < size 4#3, (loaded 0 [] 4033#16 0#16 1#16).nw ≤ (loaded 0 [] 4033#16 0#16 1#16).gatherAddr .fwd k) ∧
    (Instr.iidt 0#3).transferShape = some (.inv, 0#3) ∧ (Instr.iidt 0#3).WellFormed ∧
    (∃ k < size 0#3, (loaded 0 [] 0#16 4093#16 1#16).nw ≤ (loaded 0 [] 0#16 4093#16 1#16).scatterAddr .inv k) :=
  ⟨rfl, by decide, ⟨63, by decide, by decide⟩, rfl, by decide, ⟨3, by decide, by decide⟩⟩

/-- A contiguous gather of the inverse shape, with ERR set before, and of the permutation shape, at the smallest and the
largest size. -/
theorem test_witness_LastWordSourceRaisesRange :
    (∃ s : State, (Instr.idct 4#3 .flattened true).transferShape = some (.inv, 4#3) ∧
      (Instr.idct 4#3 .flattened true).WellFormed ∧ s.src.toNat = s.nw - 1 ∧ s.err = true) ∧
    (∃ s : State, (Instr.permi 0#3 .dst).transferShape = some (.perm, 0#3) ∧ (Instr.permi 0#3 .dst).WellFormed ∧
      s.src.toNat = s.nw - 1 ∧ s.err = false) :=
  ⟨⟨{ loaded 0 [] 4095#16 0#16 1#16 with err := true, ecode := .bus }, rfl, by decide, by decide, rfl⟩,
    ⟨loaded 0 [] 4095#16 0#16 1#16, rfl, by decide, by decide, rfl⟩⟩

/-- A transfer that stores, with a byte outside its scatter list, a well-formed one in range, and one out of range. -/
theorem test_witness_TransferFrame :
    (∃ t, exec (.fdct 0#3 .precise false) edge4 = .next t ∧ (Instr.fdct 0#3 .precise false).WellFormed ∧
      (∀ k < size 0#3, 4 * 4092 - 1 ≠ 4 * edge4.scatterAddr .fwd k) ∧
      (∀ k < size 0#3, (4 * 4092 - 1) / 4 ≠ edge4.scatterAddr .fwd k) ∧
      (∀ k < size 0#3, edge4.gatherAddr .fwd k < edge4.nw ∧ edge4.scatterAddr .fwd k < edge4.nw)) ∧
    (∃ t, exec (.iidt 0#3) (loaded 0 [] 0#16 4093#16 1#16) = .next t ∧
      ∃ k < size 0#3, (loaded 0 [] 0#16 4093#16 1#16).nw ≤ (loaded 0 [] 0#16 4093#16 1#16).scatterAddr .inv k) :=
  ⟨⟨_, rfl, by decide, by decide +kernel, by decide +kernel, by decide +kernel⟩, ⟨_, rfl, 3, by decide, by decide⟩⟩

theorem test_witness_SetterFrame :
    ∃ t, Instr.transferShape (.setsrc 5#16) = none ∧ exec (.setsrc 5#16) edge4 = .next t ∧
      (∀ imm, Instr.setsrc 5#16 ≠ .setdst imm) ∧ (∀ imm, Instr.setsrc 5#16 ≠ .setstr imm) :=
  ⟨_, rfl, rfl, by simp, by simp⟩

theorem test_witness_OnlyComputingCommandsSetOverflow :
    Instr.computes (.permi 4#3 .dst) = false ∧ Instr.computes (.fdct 4#3 .precise true) = true ∧
      { State.reset with ovfFlag := true }.ovfFlag = true := by decide

/-- An engine step that raises ILLEGAL, and one that raises RANGE. -/
theorem test_witness_CommandErrorsArePrecise :
    (∃ (s t : State) (c : Word), s.pending = some c ∧ s.engineTurn ∧ s.err = false ∧ step s = .next t ∧ t.err = true) ∧
    (∃ (s t : State) (c : Word), s.pending = some c ∧ s.engineTurn ∧ s.err = false ∧ step s = .next t ∧ t.err = true ∧
      t.ecode = .range) :=
  ⟨⟨running 0x40000006#32 0 [], (running 0x40000006#32 0 []).completeErr .illegal, _, rfl, .inl rfl, rfl, by rfl, rfl⟩,
    ⟨(loaded 0 [] 4095#16 0#16 1#16).placeCommand 0x50000000#32,
      ((loaded 0 [] 4095#16 0#16 1#16).placeCommand 0x50000000#32).completeErr .range, _, rfl, .inl rfl, rfl, by rfl, rfl, rfl⟩⟩

/-- With ERR = 1: a step that keeps it, and one that clears it. -/
theorem test_witness_FirstErrorIsKept :
    (∃ s t : State, s.err = true ∧ step s = .next t ∧ t.err = true) ∧
    (∃ s t : State, s.err = true ∧ step s = .next t ∧ t.err = false) :=
  ⟨⟨{ waiting [.read .bits8 0] with err := true, ecode := .range }, _, rfl, rfl, rfl⟩,
    ⟨{ waiting [.write .bits32 0x0C 4#32] with err := true, ecode := .range }, _, rfl, rfl, rfl⟩⟩

/-- Two states that agree on DMEM and the address registers and differ in STATUS, CTRL (ALT8 included), CMDCNT and LASTCMD. -/
theorem test_witness_CommandsIgnoreStatusAndControl :
    ∃ s s' : State, s.params = s'.params ∧ s.dmem = s'.dmem ∧ s.epoch = s'.epoch ∧ s.src = s'.src ∧ s.dst = s'.dst ∧
      s.stride = s'.stride ∧ s.ctrl ≠ s'.ctrl ∧ s.status ≠ s'.status ∧ s.cmdcnt ≠ s'.cmdcnt ∧ s.lastCmd ≠ s'.lastCmd :=
  ⟨edge4, { edge4 with ctrl := 0xF#4, err := true, ecode := .bus, cmdcnt := 9#32, lastCmd := 1#32 }, rfl, rfl, rfl, rfl, rfl,
    rfl, by decide +kernel, by decide +kernel, by decide +kernel, by decide +kernel⟩

theorem test_witness_VectorBufferIsUnobservable : ∃ s t : State, s.vbuf ≠ Vector.replicate 64 7#32 ∧ step s = .next t :=
  ⟨edge4.placeCommand 0x40000000#32, _, by decide +kernel, rfl⟩

/-- The last value that does not wrap, on either side, and the first that does. -/
theorem test_witness_StoreWrapsAndRecords :
    (store 2147483647).ovf = false ∧ (store (-2147483648)).ovf = false ∧ (store 2147483648).ovf = true := by decide

/-- A rotation of each kind on either side of a wrap, the one negation that wraps (R140, R182), and vectors of the largest and
the smallest size. -/
theorem test_witness_SmallComposersAreTheListings :
    (reflP 64 0x80000000#32 0#32).ovf = false ∧ (reflP 64 0x7FFFFFFF#32 0x7FFFFFFF#32).ovf = true ∧
    (reflF 64 0#32 2#32).ovf = false ∧ (reflF 64 0x7FFFFFFF#32 0x7FFFFFFF#32).ovf = true ∧
    (ireflP 64 0#32 0x80000000#32).ovf = true ∧ (negate 0x80000000#32).ovf = true ∧
    (negate 0x80000001#32).ovf = false ∧
    (List.replicate 64 (0x80000000#32 : Word)).length = 2 ^ (5 + 1) ∧ [0x80000000#32].length = 1 := by decide

theorem test_witness_MultiplyRoundsToNearest :
    16777215 < 16777216 ∧ (0x80000001#32 : Word) ≠ 0x80000000#32 ∧
    ((0x80000001#32 : Word).toInt * 16777215) % 16777216 ≠ 8388608 ∧ ((1#32 : Word).toInt * 8388608) % 16777216 = 8388608 := by
  decide

theorem test_witness_FlattenedRotationDoesNotWrap :
    |(0x3FFFFFFF#32 : Word).toInt| < 1073741824 ∧ |(0xC0000001#32 : Word).toInt| < 1073741824 ∧ 1 ≤ 64 := by decide

theorem test_witness_ButterflyOfEqualInputs :
    |(0x8000#32 : Word).toInt| ≤ 32768 ∧ |(0xFFFF8000#32 : Word).toInt| ≤ 32768 := by decide

theorem test_witness_PreciseComposersRoundTrip :
    (List.replicate 64 (0x80000000#32 : Word)).length = 2 ^ 6 ∧ sizeOk 4#3 = true ∧
    (List.replicate 64 (0x80000000#32 : Word)).length = size 4#3 := by decide

/-- FDCT.4 from [4, 0, 0, 0] and IDCT.4 of its output, both in range: with a strided destination, and with stride 0, where
the last word is claimed. -/
theorem test_witness_PreciseCommandsRoundTrip :
    (∃ s t u : State, sizeOk 0#3 = true ∧
      (∀ i < size 0#3, s.src.toNat + i * s.stride.toNat < s.nw ∧ s.dst.toNat + i < s.nw ∧
        (0#16 : Half).toNat + i * (1365#16 : Half).toNat < s.nw) ∧
      exec (.fdct 0#3 .precise false) s = .next t ∧
      exec (.idct 0#3 .precise false) { t with src := s.dst, dst := 0#16, stride := 1365#16 } = .next u ∧
      (1365#16 : Half) ≠ 0#16) ∧
    (∃ s t u : State, sizeOk 0#3 = true ∧
      (∀ i < size 0#3, s.src.toNat + i * s.stride.toNat < s.nw ∧ s.dst.toNat + i < s.nw ∧
        (4095#16 : Half).toNat + i * (0#16 : Half).toNat < s.nw) ∧
      exec (.fdst 0#3 .precise true) s = .next t ∧
      exec (.idst 0#3 .precise true) { t with src := s.dst, dst := 4095#16, stride := 0#16 } = .next u ∧ 3 = size 0#3 - 1) :=
  ⟨⟨edge4, _, _, by decide, by decide +kernel, rfl, rfl, by decide⟩,
    ⟨edge4, _, _, by decide, by decide +kernel, rfl, rfl, by decide⟩⟩

theorem test_witness_ConstantVectorIsIsolated :
    sizeOk 4#3 = true ∧ -32768 ≤ (0xFFFF8000#32 : Word).toInt ∧ (0x7FFF#32 : Word).toInt ≤ 32767 := by decide

theorem test_witness_GuardBitsSuffice :
    6 ≤ 6 ∧ (List.replicate 64 (0x07FFFFFF#32 : Word)).length = 2 ^ 6 ∧
    ∀ w ∈ List.replicate 64 (0x07FFFFFF#32 : Word), |w.toInt| < 134217728 :=
  ⟨by decide, by decide, fun w hw => by rw [List.eq_of_mem_replicate hw]; decide⟩

theorem test_witness_OddSlotsAreTheFirstHalf : 63 < 2 ^ (5 + 1) ∧ 1 ≤ 32 ∧ 32 ≤ 2 ^ 5 := by decide

theorem test_witness_TablesAreBijections : 63 < 2 ^ 6 ∧ 0 < 2 ^ 0 ∧ 63 ≠ 0 := by decide

theorem test_witness_PermutationsUndoEachOther : (ws [10, 20, 30, 40]).length = 2 ^ 2 := by decide

theorem test_witness_RawThenPermfIsTheTransform :
    ∃ s t u v : State, sizeOk 0#3 = true ∧
      (∀ i < size 0#3, s.src.toNat + i * s.stride.toNat < s.nw ∧ s.dst.toNat + i < s.nw ∧ (4092#16 : Half).toNat + i < s.nw) ∧
      exec (.fdct 0#3 .flattened true) s = .next t ∧
      exec (.permf 0#3 .dct) { t with src := s.dst, dst := 4092#16 } = .next u ∧ exec (.fdct 0#3 .flattened false) s = .next v :=
  ⟨edge4, _, _, _, by decide, by decide +kernel, rfl, rfl, rfl⟩

theorem test_witness_PermiThenRawIsTheInverse :
    (∃ s t u v : State, sizeOk 0#3 = true ∧
      (∀ i < size 0#3, s.src.toNat + i < s.nw ∧ s.dst.toNat + i < s.nw ∧ (0#16 : Half).toNat + i * s.stride.toNat < s.nw) ∧
      exec (.permi 0#3 .dst) s = .next t ∧
      exec (.idst 0#3 .precise true) { t with src := s.dst, dst := 0#16 } = .next u ∧
      exec (.idst 0#3 .precise false) { s with dst := 0#16 } = .next v ∧ s.stride ≠ 0#16) ∧
    (∃ s t u v : State, sizeOk 0#3 = true ∧
      (∀ i < size 0#3, s.src.toNat + i < s.nw ∧ s.dst.toNat + i < s.nw ∧ (0#16 : Half).toNat + i * s.stride.toNat < s.nw) ∧
      exec (.permi 0#3 .dct) s = .next t ∧
      exec (.idct 0#3 .flattened true) { t with src := s.dst, dst := 0#16 } = .next u ∧
      exec (.idct 0#3 .flattened false) { s with dst := 0#16 } = .next v ∧ s.stride = 0#16 ∧ 3 = size 0#3 - 1) :=
  ⟨⟨edgeInv4, _, _, _, by decide, by decide +kernel, rfl, rfl, rfl, by decide +kernel⟩,
    ⟨loaded 4092 [4, 0, 0, 0] 4092#16 0#16 0#16, _, _, _, by decide, by decide +kernel, rfl, rfl, rfl, by decide +kernel,
      by decide⟩⟩

/-- The host's turn while idle and while busy. -/
theorem test_witness_ControlWriteKeepsFourBits :
    (∃ (s : State) (v : Word) (rest : List Input), s.inputs = .write .bits32 0x08 v :: rest ∧ s.hostTurn ∧ s.busy = true) ∧
    (∃ (s : State) (v : Word) (rest : List Input), s.inputs = .write .bits32 0x08 v :: rest ∧ s.hostTurn ∧ s.busy = false) :=
  ⟨⟨running 0#32 1 [.write .bits32 0x08 0xFFFFFFFF#32], _, _, rfl, .inr (by decide), by decide⟩,
    ⟨waiting [.write .bits32 0x08 0#32], _, _, rfl, .inl rfl, by decide⟩⟩

theorem test_witness_StatusWriteClearsItsBits :
    ∃ (s : State) (v : Word) (rest : List Input), s.inputs = .write .bits32 0x0C v :: rest ∧ s.hostTurn ∧
      v.getLsbD 1 = true ∧ v.getLsbD 2 = false ∧ v.getLsbD 3 = true :=
  ⟨running 0#32 1 [.write .bits32 0x0C 0xA#32], _, _, rfl, .inr (by decide), by decide, by decide, by decide⟩

/-- Each of the six error codes, busy and idle. -/
theorem test_witness_StatusReadsItsFields :
    ∀ e : ErrCode,
      (∃ (s : State) (rest : List Input), s.inputs = .read .bits32 0x0C :: rest ∧ s.hostTurn ∧ s.busy = true ∧ s.ecode = e) ∧
      (∃ (s : State) (rest : List Input), s.inputs = .read .bits32 0x0C :: rest ∧ s.hostTurn ∧ s.busy = false ∧ s.ecode = e) :=
  fun e => ⟨⟨{ running 0#32 1 [.read .bits32 0x0C] with ecode := e }, _, rfl, .inr Nat.one_ne_zero, rfl, rfl⟩,
    ⟨{ waiting [.read .bits32 0x0C] with ecode := e }, _, rfl, .inl rfl, rfl, rfl⟩⟩

/-- The last reserved offset below the DMEM window, the first above it, and the last of the aperture. -/
theorem test_witness_RegisterReadsHaveNoSideEffect :
    (∃ (s : State) (rest : List Input), s.inputs = .read .bits32 0x14 :: rest ∧ s.hostTurn ∧ 0x14 % 4 = 0 ∧ 0x14 < 0x10000) ∧
    (∃ (s : State) (rest : List Input), s.inputs = .read .bits32 0xFFFC :: rest ∧ s.hostTurn ∧ 0xFFFC % 4 = 0 ∧
      0xFFFC < 0x10000) ∧
    (∃ (s : State) (rest : List Input), s.inputs = .read .bits32 0x14000 :: rest ∧ s.hostTurn ∧ 0x14000 % 4 = 0 ∧
      0x10000 + 4 * s.nw ≤ 0x14000 ∧ 0x14000 < 0x20000) :=
  ⟨⟨running 0#32 1 [.read .bits32 0x14], _, rfl, .inr (by decide), by decide, by decide⟩,
    ⟨waiting [.read .bits32 0xFFFC], _, rfl, .inl rfl, by decide, by decide⟩,
    ⟨waiting [.read .bits32 0x14000], _, rfl, .inl rfl, by decide, by decide, by decide⟩⟩

theorem test_witness_ReservedWritesAreIgnored :
    (∃ (s : State) (v : Word) (rest : List Input), s.inputs = .write .bits32 0x20 v :: rest ∧ s.hostTurn ∧ 0x20 % 4 = 0) ∧
    (∃ (s : State) (v : Word) (rest : List Input), s.inputs = .write .bits32 0x24 v :: rest ∧ s.hostTurn ∧ 0x24 ≤ 0x24 ∧
      0x24 % 4 = 0 ∧ 0x24 < 0x10000) ∧
    (∃ (s : State) (v : Word) (rest : List Input), s.inputs = .write .bits32 0x1FFFC v :: rest ∧ s.hostTurn ∧
      0x1FFFC % 4 = 0 ∧ 0x10000 + 4 * s.nw ≤ 0x1FFFC ∧ 0x1FFFC < 0x20000) :=
  ⟨⟨running 0#32 1 [.write .bits32 0x20 1#32], _, _, rfl, .inr (by decide), by decide⟩,
    ⟨waiting [.write .bits32 0x24 1#32], _, _, rfl, .inl rfl, by decide, by decide, by decide⟩,
    ⟨waiting [.write .bits32 0x1FFFC 1#32], _, _, rfl, .inl rfl, by decide, by decide, by decide⟩⟩

theorem test_witness_AddressRegisterWriteWhileIdle :
    ∃ s₁ s₂ s₃ : State, s₁.pending = none ∧ s₂.pending = none ∧ s₃.pending = none ∧
      s₁.inputs = [.write .bits32 0x14 0xFFFFFFFF#32] ∧ s₂.inputs = [.write .bits32 0x18 0xFFFFFFFF#32] ∧
      s₃.inputs = [.write .bits32 0x1C 0x10000#32] :=
  ⟨waiting [.write .bits32 0x14 0xFFFFFFFF#32], waiting [.write .bits32 0x18 0xFFFFFFFF#32],
    waiting [.write .bits32 0x1C 0x10000#32], rfl, rfl, rfl, rfl, rfl, rfl⟩

/-- The last offset of the DMEM window, 0x13FFC with NW = 4096, written and read, and an address register. -/
theorem test_witness_HostIsRefusedWhileBusy :
    (∃ (s : State) (c v : Word), s.pending = some c ∧ s.delay ≠ 0 ∧ 0x13FFC % 4 = 0 ∧
      s.inputs = [.write .bits32 0x13FFC v] ∧ 0x10000 ≤ 0x13FFC ∧ 0x13FFC < 0x10000 + 4 * s.nw) ∧
    (∃ (s : State) (c v : Word), s.pending = some c ∧ s.delay ≠ 0 ∧ 0x1C % 4 = 0 ∧ s.inputs = [.write .bits32 0x1C v]) ∧
    (∃ (s : State) (c : Word), s.pending = some c ∧ s.delay ≠ 0 ∧ 0x10000 % 4 = 0 ∧
      s.inputs = [.read .bits32 0x10000] ∧ 0x10000 < 0x10000 + 4 * s.nw) :=
  ⟨⟨running 0#32 1 [.write .bits32 0x13FFC 1#32], _, _, rfl, by decide, by decide, rfl, by decide, by decide⟩,
    ⟨running 0#32 1 [.write .bits32 0x1C 1#32], _, _, rfl, by decide, by decide, rfl⟩,
    ⟨running 0#32 1 [.read .bits32 0x10000], _, rfl, by decide, by decide, rfl, by decide⟩⟩

theorem test_witness_DmemWindowWhileIdle :
    (∃ (s : State) (v : Word), s.pending = none ∧ 4095 < s.nw ∧ s.inputs = [.write .bits32 (0x10000 + 4 * 4095) v] ∧
      ∃ a, a / 4 ≠ 4095) ∧
    (∃ s : State, s.pending = none ∧ 0 < s.nw ∧ s.inputs = [.read .bits32 (0x10000 + 4 * 0)]) :=
  ⟨⟨waiting [.write .bits32 0x13FFC 1#32], _, rfl, by decide, rfl, 0, by decide⟩,
    ⟨waiting [.read .bits32 0x10000], rfl, by decide, rfl⟩⟩

/-- A width that is not 32-bit at an aligned offset, and an unaligned 32-bit access at the aperture's end. -/
theorem test_witness_BadAccessIsABusError :
    (∃ (s : State) (v : Word), s.hostTurn ∧ 0x10000 < 0x20000 ∧ Width.bits64 ≠ .bits32 ∧
      s.inputs = [.write .bits64 0x10000 v]) ∧
    (∃ s : State, s.hostTurn ∧ s.busy = true ∧ 0x1FFFF < 0x20000 ∧ 0x1FFFF % 4 ≠ 0 ∧
      s.inputs = [.read .bits32 0x1FFFF]) :=
  ⟨⟨waiting [.write .bits64 0x10000 1#32], _, .inl rfl, by decide, by decide, rfl⟩,
    ⟨running 0#32 1 [.read .bits32 0x1FFFF], .inr (by decide), by decide, by decide, by decide, rfl⟩⟩

end Sys2Proof.Tests
end

section
/-! PROOFS. Stores, rotations, the permutation tables and the composers: what the obligations of the arithmetic and of the
composers need, and the two statements settled here (O35, O41). -/

namespace Sys2Proof.Machine

/-! ## Stores and negations -/

/-- The values a word holds, those a store keeps (R8, R12). -/
def IsWord (e : Int) : Prop := -2147483648 ≤ e ∧ e < 2147483648

theorem store_ovf_eq_false_iff_isWord (e : Int) : (store e).ovf = false ↔ IsWord e := store_ovf_eq_false_iff e

/-- A store keeps its value modulo 2^32 (R11). -/
theorem store_val_toInt_emod (e : Int) : (store e).val.toInt % 4294967296 = e % 4294967296 := by
  rw [store_val, BitVec.toInt_ofInt]
  exact Int.bmod_emod

/-- The most negative word is the one whose negation is no word (R182). -/
theorem isWord_neg_toInt_iff (x : Word) : IsWord (-x.toInt) ↔ x ≠ 0x80000000#32 := by
  have hx : x = 0x80000000#32 ↔ x.toInt = -2147483648 := BitVec.toInt_inj.symm
  have hlo := x.le_toInt
  have hhi := x.toInt_lt
  rw [IsWord, ne_eq, hx]
  omega

theorem negate_ovf_eq_false_iff (x : Word) : (negate x).ovf = false ↔ x ≠ 0x80000000#32 := by
  rw [negate, store_ovf_eq_false_iff_isWord, isWord_neg_toInt_iff]

/-- A negation wraps exactly at −2^31, which it keeps (R182). -/
theorem negate_eq (x : Word) : negate x = ⟨-x, decide (x = 0x80000000#32)⟩ := by
  have hovf : (negate x).ovf = decide (x = 0x80000000#32) := by
    rw [Bool.eq_iff_iff, ← Bool.not_eq_false, negate_ovf_eq_false_iff]
    simp
  rw [← negate_val, ← hovf]

theorem negateIf_val (b : Bool) (x : Word) : (negateIf b x).val = if b then (negate x).val else x := by
  cases b <;> rfl

theorem negateIf_ovf (b : Bool) (x : Word) : (negateIf b x).ovf = (b && (negate x).ovf) := by
  cases b <;> rfl

/-! ## Rotations -/

/-- The precise rotation is R126: its fourth store repeats a word and its last is a negation. -/
theorem reflP_eq_rule (k : Nat) (a b : Word) :
    let e₁ := a.toInt + mulr b (romT k)
    let a₁ := BitVec.ofInt 32 e₁
    let e₂ := b.toInt - mulr a₁ (romS k)
    let b₁ := BitVec.ofInt 32 e₂
    let e₃ := a₁.toInt + mulr b₁ (romT k)
    let r := reflP k a b
    r.p = BitVec.ofInt 32 e₃ ∧ r.q = -b₁ ∧
      (r.ovf = false ↔ IsWord e₁ ∧ IsWord e₂ ∧ IsWord e₃ ∧ b₁ ≠ 0x80000000#32) := by
  simp only [reflP, store_toInt, store_val, negate_val, Bool.or_eq_false_iff, store_ovf_eq_false_iff_isWord,
    negate_ovf_eq_false_iff, and_assoc, true_and]

/-- The inverse precise rotation is R127. -/
theorem ireflP_eq_rule (k : Nat) (a b : Word) :
    let b₁ := -b
    let e₁ := a.toInt - mulr b₁ (romT k)
    let a₁ := BitVec.ofInt 32 e₁
    let e₂ := b₁.toInt + mulr a₁ (romS k)
    let e₃ := a₁.toInt - mulr (BitVec.ofInt 32 e₂) (romT k)
    let r := ireflP k a b
    r.p = BitVec.ofInt 32 e₃ ∧ r.q = BitVec.ofInt 32 e₂ ∧
      (r.ovf = false ↔ b ≠ 0x80000000#32 ∧ IsWord e₁ ∧ IsWord e₂ ∧ IsWord e₃) := by
  simp only [ireflP, store_val, negate_val, Bool.or_eq_false_iff, store_ovf_eq_false_iff_isWord,
    negate_ovf_eq_false_iff, and_assoc, true_and]

/-- The flattened rotation is R133, and its own inverse R135. -/
theorem reflF_eq_rule (k : Nat) (a b : Word) :
    let t := (romT k : Int)
    let u := (romS k : Int)
    let e₁ := ((2 ^ 48 - t * u) * 2 ^ 24 * a.toInt + t * (2 ^ 49 - t * u) * b.toInt + 2 ^ 71) / 2 ^ 72
    let e₂ := (u * 2 ^ 48 * a.toInt - (2 ^ 48 - t * u) * 2 ^ 24 * b.toInt + 2 ^ 71) / 2 ^ 72
    let r := reflF k a b
    r.p = BitVec.ofInt 32 e₁ ∧ r.q = BitVec.ofInt 32 e₂ ∧ (r.ovf = false ↔ IsWord e₁ ∧ IsWord e₂) ∧
      ireflF k a b = r := by
  simp only [ireflF, reflF, flatA, flatB, flatC, Int.shiftRight_eq_div_pow, store_val, Bool.or_eq_false_iff,
    store_ovf_eq_false_iff_isWord]
  norm_num

/-! ## The permutation tables -/

/-- Every frequency below N has a slot in both tables (R192). -/
theorem mem_permC2_permS4 (n : Nat) : (∀ f < 2 ^ n, f ∈ permC2 n) ∧ ∀ f < 2 ^ n, f ∈ permS4 n := by
  induction n with
  | zero => simp [permC2, permS4]
  | succ n ih =>
    obtain ⟨ihC, ihS⟩ := ih
    have hpos : 0 < 2 ^ n := Nat.two_pow_pos n
    simp only [permC2, permS4, List.mem_append, List.mem_map, Nat.pow_succ]
    refine ⟨fun f hf => ?_, fun f hf => ?_⟩
    · obtain ⟨k, rfl | rfl⟩ := Nat.even_or_odd' f
      · exact .inl ⟨k, ihC k (by omega), rfl⟩
      · exact .inr ⟨k, ihS k (by omega), rfl⟩
    · obtain ⟨k, rfl | rfl⟩ := Nat.even_or_odd' f
      · by_cases hk : k = 0
        · exact .inl ⟨0, ihC 0 hpos, by simp [hk]⟩
        · exact .inr ⟨2 ^ n - k, ihC _ (by omega), by rw [if_neg (by omega)]; omega⟩
      · by_cases hk : k + 1 < 2 ^ n
        · exact .inl ⟨k + 1, ihC _ hk, by simp; omega⟩
        · exact .inr ⟨0, ihC 0 hpos, by rw [if_pos rfl]; omega⟩

/-- A list of N numbers that holds every number below N is a rearrangement of them. -/
theorem perm_range_of_mem {l : List Nat} {N : Nat} (hl : l.length = N) (h : ∀ f < N, f ∈ l) :
    l.Perm (List.range N) :=
  ((List.nodup_range.subperm fun f hf => h f (List.mem_range.1 hf)).perm_of_length_le (by simp [hl])).symm

/-- permC2_N is a permutation of 0 .. N − 1 (R192). -/
theorem permC2_perm_range (n : Nat) : (permC2 n).Perm (List.range (2 ^ n)) :=
  perm_range_of_mem (length_permC2 n) (mem_permC2_permS4 n).1

/-- permS4_N is a permutation of 0 .. N − 1 (R192). -/
theorem permS4_perm_range (n : Nat) : (permS4 n).Perm (List.range (2 ^ n)) :=
  perm_range_of_mem (length_permS4 n) (mem_permC2_permS4 n).2

theorem nth_eq_getElem {t : List Nat} {i : Nat} (h : i < t.length) : nth t i = t[i] := by simp [nth, h]

theorem nth_permC2_lt {n a : Nat} (h : a < 2 ^ n) : nth (permC2 n) a < 2 ^ n := by
  rw [nth_eq_getElem (by simpa), ← List.mem_range, ← (permC2_perm_range n).mem_iff]
  exact List.getElem_mem _

theorem nth_permC2_zero (n : Nat) : nth (permC2 n) 0 = 0 := by
  induction n with
  | zero => rfl
  | succ n ih =>
    have h : 0 < (permC2 n).length := by simp
    rw [nth_eq_getElem h] at ih
    rw [nth_eq_getElem (by simp)]
    simp [permC2, List.getElem_append_left, ih]

theorem sigma_lt {n j : Nat} (h : j < 2 ^ n) : sigma n j < 2 ^ n := by
  have := List.idxOf_lt_length_of_mem ((mem_permC2_permS4 n).1 j h)
  rwa [length_permC2] at this

/-- Slot σ(j) holds frequency j (R193). -/
theorem nth_permC2_sigma {n j : Nat} (h : j < 2 ^ n) : nth (permC2 n) (sigma n j) = j := by
  rw [nth_eq_getElem (by simpa using sigma_lt h)]
  exact List.getElem_idxOf _

/-- The slot of the frequency in slot a is a (R193). -/
theorem sigma_nth_permC2 {n a : Nat} (h : a < 2 ^ n) : sigma n (nth (permC2 n) a) = a := by
  rw [nth_eq_getElem (by simpa)]
  exact ((permC2_perm_range n).nodup_iff.2 List.nodup_range).idxOf_getElem a _

theorem sigma_zero (n : Nat) : sigma n 0 = 0 := by
  simpa [nth_permC2_zero] using sigma_nth_permC2 (Nat.two_pow_pos n)

theorem sigma_ne_zero {n j : Nat} (h1 : 1 ≤ j) (h : j < 2 ^ n) : sigma n j ≠ 0 := by
  intro h0
  have := nth_permC2_sigma h
  rw [h0, nth_permC2_zero] at this
  omega

theorem one_le_nth_permC2 {n a : Nat} (h0 : a ≠ 0) (h : a < 2 ^ n) : 1 ≤ nth (permC2 n) a := by
  rw [Nat.one_le_iff_ne_zero]
  intro hz
  have := sigma_nth_permC2 h
  rw [hz, sigma_zero] at this
  exact h0 this.symm

/-- The slots but slot 0 hold the frequencies from 1 to N − 1. -/
theorem exists_slot_iff_exists_frequency (n : Nat) (P : Nat → Prop) :
    (∃ a < 2 ^ n, a ≠ 0 ∧ P (nth (permC2 n) a)) ↔ ∃ j < 2 ^ n, 1 ≤ j ∧ P j := by
  constructor
  · rintro ⟨a, ha, h0, hP⟩
    exact ⟨_, nth_permC2_lt ha, one_le_nth_permC2 h0 ha, hP⟩
  · rintro ⟨j, hj, h1, hP⟩
    exact ⟨sigma n j, sigma_lt hj, sigma_ne_zero h1 hj, by rwa [nth_permC2_sigma hj]⟩

/-! ## Lists of rotations and stores -/

theorem anyRot_map_range (f : Nat → Rotated) (n : Nat) :
    anyRot ((List.range n).map f) = true ↔ ∃ i < n, (f i).ovf = true := by
  simp [anyRot]

theorem anySt_map_range (f : Nat → Stored) (n : Nat) :
    anySt ((List.range n).map f) = true ↔ ∃ i < n, (f i).ovf = true := by
  simp [anySt]

theorem ps_map_range (f : Nat → Rotated) (n : Nat) :
    ps ((List.range n).map f) = (List.range n).map (fun i => (f i).p) := by
  simp [ps]

theorem qs_map_range (f : Nat → Rotated) (n : Nat) :
    qs ((List.range n).map f) = (List.range n).map (fun i => (f i).q) := by
  simp [qs]

theorem vals_map_range (f : Nat → Stored) (n : Nat) :
    vals ((List.range n).map f) = (List.range n).map (fun i => (f i).val) := by
  simp [vals]

theorem reverse_map_range (f : Nat → Word) (n : Nat) :
    ((List.range n).map f).reverse = (List.range n).map (fun i => f (n - 1 - i)) := by
  refine vec_ext (by simp) fun i hi => ?_
  have hi' : i < n := by simpa using hi
  rw [elt_reverse (by simpa), elt_map_range hi', List.length_map, List.length_range, elt_map_range (by omega)]

theorem elt_append_length_add {x y : List Word} {N : Nat} (hx : x.length = N) (i : Nat) :
    elt (x ++ y) (N + i) = elt y i := by
  rw [elt_append_right (by omega), hx, Nat.add_sub_cancel_left]

/-- Counted from the end, a vector's second half reversed is the half itself. -/
theorem elt_append_reverse {x y : List Word} {N i : Nat} (hx : x.length = N) (hy : y.length = N) (hi : i < N) :
    elt (x ++ y.reverse) (2 * N - 1 - i) = elt y i := by
  rw [show 2 * N - 1 - i = N + (N - 1 - i) by omega, elt_append_length_add hx, elt_reverse (by omega), hy,
    show N - 1 - (N - 1 - i) = i by omega]

theorem take_eq_map_range {x : List Word} {N : Nat} (h : N ≤ x.length) : x.take N = (List.range N).map (elt x) := by
  refine vec_ext (by simpa) fun i hi => ?_
  have hi' : i < N := by simp at hi; omega
  rw [elt_take hi', elt_map_range hi']

/-- A loop over t = j − 1 is the loop over j from 1. -/
theorem exists_lt_sub_one_iff (N : Nat) (P : Nat → Prop) : (∃ t < N - 1, P (t + 1)) ↔ ∃ j < N, 1 ≤ j ∧ P j := by
  constructor
  · rintro ⟨t, ht, hP⟩
    exact ⟨t + 1, by omega, by omega, hP⟩
  · rintro ⟨j, hj, h1, hP⟩
    exact ⟨j - 1, by omega, by rwa [Nat.sub_add_cancel h1]⟩

/-! ## The composers' steps -/

theorem kidx_succ (n i : Nat) : kidx (n + 1) i = (2 * i + 1) * 64 / (2 * 2 ^ n) := by
  rw [kidx, Nat.pow_succ']

theorem vals_signAdjust (n : Nat) (f : List Word) :
    vals (signAdjust n f) =
      (List.range (2 ^ n)).map (fun i => if nth (permS4 n) i % 2 = 1 then (negate (elt f i)).val else elt f i) := by
  simp [signAdjust, vals_map_range, negateIf_val]

theorem anySt_signAdjust (n : Nat) (f : List Word) :
    anySt (signAdjust n f) = true ↔ ∃ i < 2 ^ n, nth (permS4 n) i % 2 = 1 ∧ (negate (elt f i)).ovf = true := by
  simp [signAdjust, anySt_map_range, negateIf_ovf]

theorem vals_alternate (n : Nat) (v : List Word) :
    vals (alternate n v) = (List.range (2 ^ n)).map (fun i => if i % 2 = 1 then (negate (elt v i)).val else elt v i) := by
  simp [alternate, vals_map_range, negateIf_val]

theorem anySt_alternate (n : Nat) (v : List Word) :
    anySt (alternate n v) = true ↔ ∃ i < 2 ^ n, i % 2 = 1 ∧ (negate (elt v i)).ovf = true := by
  simp [alternate, anySt_map_range, negateIf_ovf]

/-- C2 meets R153's loop. -/
theorem c2_meets_loop (fam : Family) (n : Nat) (x : List Word) : DctLoop fam n x := by
  simp only [DctLoop, c2, c2Butterflies, ps_map_range, qs_map_range, reverse_map_range]
  refine ⟨by simp; omega, fun i hi => elt_append_left (by simpa), fun i hi hodd => ?_, fun i hi heven => ?_, ?_⟩
  · rw [elt_append_length_add (by simp), vals_signAdjust, elt_map_range hi, if_pos hodd]
  · rw [elt_append_length_add (by simp), vals_signAdjust, elt_map_range hi, if_neg heven]
  · simp only [Bool.or_eq_true, anyRot_map_range, anySt_signAdjust, or_assoc]

/-- R156's last loop, its d given by the reversed list. -/
theorem ic2Butterflies_reverse (fam : Family) {h : Nat} (s : List Word) {d : List Word} (hd : d.length = h) :
    ic2Butterflies fam h s d.reverse =
      (List.range h).map (fun i => ireflect fam 64 (elt s i) (elt d (h - 1 - i))) := by
  refine List.map_congr_left fun i hi => ?_
  rw [elt_reverse (by rw [hd]; exact List.mem_range.1 hi), hd]

/-- iC2 meets R156's loop. -/
theorem ic2_meets_loop (fam : Family) (n : Nat) {y : List Word} (hy : y.length = 2 ^ (n + 1)) :
    InverseDctLoop fam n y := by
  have hh : 2 ^ n ≤ y.length := by rw [hy, Nat.pow_succ]; omega
  simp only [InverseDctLoop, ic2, ic2Butterflies_reverse fam _ (length_is4 fam n _), take_eq_map_range hh,
    vals_signAdjust, elt_drop]
  refine ⟨by simp; omega, fun i hi => ⟨?_, ?_⟩, ?_⟩
  · rw [elt_append_left (by simpa), elt_ps_map_range hi]
  · rw [elt_append_reverse (by simp) (by simp) hi, elt_qs_map_range hi]
  · simp only [Bool.or_eq_true, anySt_signAdjust, elt_drop, anyRot_map_range, or_assoc]

/-! ### The post butterflies of S4 and their undoing -/

theorem rotAt_s4PostButterflies (fam : Family) {n j : Nat} (u v : List Word) (h1 : 1 ≤ j) (hj : j < 2 ^ n) :
    rotAt (s4PostButterflies fam n u v) (j - 1) =
      reflect fam 64 (elt u (sigma n j)) (elt v (sigma n (2 ^ n - j))) := by
  rw [s4PostButterflies, rotAt_map_range (by omega), Nat.sub_add_cancel h1]

theorem anyRot_s4PostButterflies (fam : Family) (n : Nat) (u v : List Word) :
    anyRot (s4PostButterflies fam n u v) = true ↔ ∃ j < 2 ^ n, 1 ≤ j ∧
      (reflect fam 64 (elt u (sigma n j)) (elt v (sigma n (2 ^ n - j)))).ovf = true := by
  rw [s4PostButterflies, anyRot_map_range]
  exact exists_lt_sub_one_iff _ fun j => (reflect fam 64 (elt u (sigma n j)) (elt v (sigma n (2 ^ n - j)))).ovf = true

@[simp] theorem length_s4FirstHalf (n : Nat) (u : List Word) (post : List Rotated) :
    (s4FirstHalf n u post).length = 2 ^ n := by simp [s4FirstHalf]

@[simp] theorem length_s4SecondHalf (n : Nat) (v : List Word) (post : List Rotated) :
    (s4SecondHalf n v post).length = 2 ^ n := by simp [s4SecondHalf]

theorem elt_s4FirstHalf_zero (n : Nat) (u : List Word) (post : List Rotated) :
    elt (vals (s4FirstHalf n u post)) 0 = elt u 0 := by
  rw [s4FirstHalf, elt_vals_map_range (Nat.two_pow_pos n), if_pos rfl]

theorem elt_s4FirstHalf_sigma {n j : Nat} (u : List Word) (post : List Rotated) (h1 : 1 ≤ j) (hj : j < 2 ^ n) :
    elt (vals (s4FirstHalf n u post)) (sigma n j) = (negate (rotAt post (j - 1)).p).val := by
  rw [s4FirstHalf, elt_vals_map_range (sigma_lt hj), if_neg (sigma_ne_zero h1 hj), nth_permC2_sigma hj]

theorem anySt_s4FirstHalf (n : Nat) (u : List Word) (post : List Rotated) :
    anySt (s4FirstHalf n u post) = true ↔
      ∃ j < 2 ^ n, 1 ≤ j ∧ (negate (rotAt post (j - 1)).p).ovf = true := by
  rw [s4FirstHalf, anySt_map_range,
    ← exists_slot_iff_exists_frequency n fun j => (negate (rotAt post (j - 1)).p).ovf = true]
  refine exists_congr fun a => and_congr_right fun _ => ?_
  by_cases h0 : a = 0 <;> simp [h0]

theorem anySt_s4FirstHalf_post (fam : Family) (n : Nat) (u v : List Word) :
    anySt (s4FirstHalf n u (s4PostButterflies fam n u v)) = true ↔ ∃ j < 2 ^ n, 1 ≤ j ∧
      (negate (reflect fam 64 (elt u (sigma n j)) (elt v (sigma n (2 ^ n - j)))).p).ovf = true := by
  rw [anySt_s4FirstHalf]
  refine exists_congr fun j => and_congr_right fun hj => and_congr_right fun h1 => ?_
  rw [rotAt_s4PostButterflies fam u v h1 hj]

theorem elt_s4SecondHalf_zero (n : Nat) (v : List Word) (post : List Rotated) :
    elt (vals (s4SecondHalf n v post)) 0 = (negate (elt v 0)).val := by
  rw [s4SecondHalf, elt_vals_map_range (Nat.two_pow_pos n), if_pos rfl]

theorem elt_s4SecondHalf_sigma {n j : Nat} (v : List Word) (post : List Rotated) (h1 : 1 ≤ j) (hj : j < 2 ^ n) :
    elt (vals (s4SecondHalf n v post)) (sigma n (2 ^ n - j)) = (rotAt post (j - 1)).q := by
  have hj' : 2 ^ n - j < 2 ^ n := by omega
  rw [s4SecondHalf, elt_vals_map_range (sigma_lt hj'), if_neg (sigma_ne_zero (by omega) hj'), nth_permC2_sigma hj',
    Nat.sub_sub_self hj.le]

theorem anySt_s4SecondHalf (n : Nat) (v : List Word) (post : List Rotated) :
    anySt (s4SecondHalf n v post) = true ↔ (negate (elt v 0)).ovf = true := by
  rw [s4SecondHalf, anySt_map_range]
  constructor
  · rintro ⟨b, -, hb⟩
    by_cases h0 : b = 0
    · simpa [h0] using hb
    · simp [h0] at hb
  · exact fun h => ⟨0, Nat.two_pow_pos n, by simpa using h⟩

/-- The alternating sign change of the pre-rotations' second outputs (R154). -/
theorem vals_alternate_map_range (n : Nat) (g : Nat → Word) :
    vals (alternate n ((List.range (2 ^ n)).map g)) =
      (List.range (2 ^ n)).map (fun i => if i % 2 = 1 then (negate (g i)).val else g i) := by
  rw [vals_alternate]
  refine List.map_congr_left fun i hi => ?_
  rw [elt_map_range (List.mem_range.1 hi)]

theorem anySt_alternate_map_range (n : Nat) (g : Nat → Word) :
    anySt (alternate n ((List.range (2 ^ n)).map g)) = true ↔
      ∃ i < 2 ^ n, i % 2 = 1 ∧ (negate (g i)).ovf = true := by
  rw [anySt_alternate]
  refine exists_congr fun i => and_congr_right fun hi => ?_
  rw [elt_map_range hi]

/-- S4 meets R154's loop. -/
theorem s4_meets_loop (fam : Family) (n : Nat) (x : List Word) : DstLoop fam n x := by
  simp only [DstLoop, s4, s4PreRotations, ps_map_range, qs_map_range, vals_alternate_map_range, kidx_succ, Nat.pow_succ']
  refine ⟨by simp; omega, ?_, fun j hj h1 => ⟨?_, ?_⟩, ?_, ?_⟩
  · rw [elt_append_left (by simp), elt_s4FirstHalf_zero]
  · rw [elt_append_left (by simpa using sigma_lt hj), elt_s4FirstHalf_sigma _ _ h1 hj,
      rotAt_s4PostButterflies fam _ _ h1 hj]
  · rw [elt_append_length_add (by simp), elt_s4SecondHalf_sigma _ _ h1 hj, rotAt_s4PostButterflies fam _ _ h1 hj]
  · rw [← Nat.add_zero (2 ^ n), elt_append_length_add (by simp), elt_s4SecondHalf_zero]
  · simp only [Bool.or_eq_true, anyRot_map_range, anySt_alternate_map_range, anyRot_s4PostButterflies,
      anySt_s4FirstHalf_post, anySt_s4SecondHalf, or_assoc]
    simp only [and_or_left, exists_or, or_assoc]

/-! ### Undoing S4 -/

theorem anySt_is4NegFirst (n : Nat) (o : List Word) :
    anySt (is4NegFirst n o) = true ↔ ∃ j < 2 ^ n, 1 ≤ j ∧ (negate (elt o (sigma n j))).ovf = true := by
  rw [is4NegFirst, anySt_map_range]
  exact exists_lt_sub_one_iff _ fun j => (negate (elt o (sigma n j))).ovf = true

/-- R157's loop (3): butterfly j undone, of −o[σ(j)] and o[h + σ(h−j)]. -/
theorem is4PostButterflies_negFirst (fam : Family) (n : Nat) (o : List Word) :
    is4PostButterflies fam n (vals (is4NegFirst n o)) o =
      (List.range (2 ^ n - 1)).map (fun t => ireflect fam 64 (negate (elt o (sigma n (t + 1)))).val
        (elt o (2 ^ n + sigma n (2 ^ n - (t + 1))))) := by
  refine List.map_congr_left fun t ht => ?_
  rw [is4NegFirst, elt_vals_map_range (List.mem_range.1 ht)]

theorem rotAt_is4PostButterflies (fam : Family) {n j : Nat} (o : List Word) (h1 : 1 ≤ j) (hj : j < 2 ^ n) :
    rotAt (is4PostButterflies fam n (vals (is4NegFirst n o)) o) (j - 1) =
      ireflect fam 64 (negate (elt o (sigma n j))).val (elt o (2 ^ n + sigma n (2 ^ n - j))) := by
  rw [is4PostButterflies_negFirst, rotAt_map_range (by omega), Nat.sub_add_cancel h1]

theorem anyRot_is4PostButterflies (fam : Family) (n : Nat) (o : List Word) :
    anyRot (is4PostButterflies fam n (vals (is4NegFirst n o)) o) = true ↔ ∃ j < 2 ^ n, 1 ≤ j ∧
      (ireflect fam 64 (negate (elt o (sigma n j))).val (elt o (2 ^ n + sigma n (2 ^ n - j)))).ovf = true := by
  rw [is4PostButterflies_negFirst, anyRot_map_range]
  exact exists_lt_sub_one_iff _ fun j =>
    (ireflect fam 64 (negate (elt o (sigma n j))).val (elt o (2 ^ n + sigma n (2 ^ n - j)))).ovf = true

@[simp] theorem length_is4FirstHalf (n : Nat) (o : List Word) (post : List Rotated) :
    (is4FirstHalf n o post).length = 2 ^ n := by simp [is4FirstHalf]

theorem elt_is4FirstHalf_zero (n : Nat) (o : List Word) (post : List Rotated) :
    elt (is4FirstHalf n o post) 0 = elt o 0 := by
  rw [is4FirstHalf, elt_map_range (Nat.two_pow_pos n), if_pos rfl]

theorem elt_is4FirstHalf_sigma {n j : Nat} (o : List Word) (post : List Rotated) (h1 : 1 ≤ j) (hj : j < 2 ^ n) :
    elt (is4FirstHalf n o post) (sigma n j) = (rotAt post (j - 1)).p := by
  rw [is4FirstHalf, elt_map_range (sigma_lt hj), if_neg (sigma_ne_zero h1 hj), nth_permC2_sigma hj]

/-- The inverse's V is built as the forward composer's second half is, from o[h] for V[0]. -/
theorem is4SecondHalf_eq (n : Nat) (o : List Word) (post : List Rotated) :
    is4SecondHalf n o post = s4SecondHalf n (o.drop (2 ^ n)) post := by
  simp [is4SecondHalf, s4SecondHalf, elt_drop]

/-- R157's last loop: the sign change undone, then the pre-rotations. -/
theorem is4PreRotations_alternate (fam : Family) (n : Nat) (u w : List Word) :
    is4PreRotations fam n u (vals (alternate n w)) =
      (List.range (2 ^ n)).map (fun i => ireflect fam ((2 * i + 1) * 64 / (2 * 2 ^ n)) (elt u i)
        (if i % 2 = 1 then (negate (elt w i)).val else elt w i)) := by
  refine List.map_congr_left fun i hi => ?_
  rw [vals_alternate, elt_map_range (List.mem_range.1 hi), kidx_succ]

/-- iS4 meets R157's loop, with the U and V it computes. -/
theorem is4_meets_loop (fam : Family) (n : Nat) (o : List Word) :
    let post := is4PostButterflies fam n (vals (is4NegFirst n o)) o
    InverseDstLoop fam n o (is4FirstHalf n o post) (vals (is4SecondHalf n o post)) := by
  simp only [InverseDstLoop, is4, is4PreRotations_alternate, is4SecondHalf_eq]
  refine ⟨by simp, by simp, elt_is4FirstHalf_zero .., ?_, fun j hj h1 => ⟨?_, ?_⟩, by simp; omega,
    fun i hi => ⟨?_, ?_⟩, ?_⟩
  · rw [elt_s4SecondHalf_zero, elt_drop, Nat.add_zero]
  · rw [elt_is4FirstHalf_sigma _ _ h1 hj, rotAt_is4PostButterflies fam _ h1 hj]
  · rw [elt_s4SecondHalf_sigma _ _ h1 hj, rotAt_is4PostButterflies fam _ h1 hj]
  · rw [elt_append_reverse (by simp) (by simp) hi, elt_ps_map_range hi]
  · rw [elt_append_left (by simpa), elt_qs_map_range hi]
  · simp only [Bool.or_eq_true, anySt_is4NegFirst, anyRot_is4PostButterflies, anySt_s4SecondHalf, elt_drop,
      Nat.add_zero, anySt_alternate, anyRot_map_range, and_or_left, exists_or, or_assoc]
    exact (or_congr_right or_left_comm).trans or_left_comm

/-! ## The listings of sizes 1, 2 and 4 -/

/-- At size 1 every composer is the identity (R152). -/
theorem composers_size_one (fam : Family) {x : List Word} (h : x.length = 1) :
    c2 fam 0 x = ⟨x, false⟩ ∧ s4 fam 0 x = ⟨x, false⟩ ∧ ic2 fam 0 x = ⟨x, false⟩ ∧ is4 fam 0 x = ⟨x, false⟩ := by
  obtain ⟨a, rfl⟩ := List.length_eq_one_iff.1 h
  exact ⟨rfl, rfl, rfl, rfl⟩

theorem permC2_one : permC2 1 = [0, 1] := rfl

theorem permS4_one : permS4 1 = [0, 1] := rfl

theorem sigma_one_one : sigma 1 1 = 1 := rfl

@[simp] theorem elt_cons_zero (a : Word) (x : List Word) : elt (a :: x) 0 = a := rfl

@[simp] theorem elt_cons_succ (a : Word) (x : List Word) (i : Nat) : elt (a :: x) (i + 1) = elt x i := by simp [elt]

section Listings

variable (fam : Family) (x0 x1 x2 x3 : Word)

/-- R159. -/
theorem c2_size_two :
    let r := reflect fam 64 x0 x1
    c2 fam 1 [x0, x1] = ⟨[r.p, r.q], r.ovf⟩ := by
  simp [c2, s4, c2Butterflies, signAdjust, ps, qs, vals, anyRot, anySt, nth, permS4, negateIf]

/-- R160. -/
theorem s4_size_two :
    let r := reflect fam 32 x1 x0
    let t := negate r.q
    s4 fam 1 [x0, x1] = ⟨[r.p, t.val], r.ovf || t.ovf⟩ := by
  simp [c2, s4, s4PreRotations, s4PostButterflies, s4FirstHalf, s4SecondHalf, alternate, kidx, ps, qs, vals, anyRot,
    anySt, negateIf]

/-- R159, read backwards. -/
theorem ic2_size_two :
    let r := ireflect fam 64 x0 x1
    ic2 fam 1 [x0, x1] = ⟨[r.p, r.q], r.ovf⟩ := by
  simp only [ic2, is4, Nat.reducePow]
  simp [ic2Butterflies, signAdjust, ps, qs, vals, anyRot, anySt, nth, permS4, negateIf]

/-- R160, read backwards. -/
theorem is4_size_two :
    let t := negate x1
    let r := ireflect fam 32 x0 t.val
    is4 fam 1 [x0, x1] = ⟨[r.q, r.p], t.ovf || r.ovf⟩ := by
  simp only [ic2, is4, is4SecondHalf, Nat.reducePow]
  simp [is4NegFirst, is4PreRotations, is4PostButterflies, is4FirstHalf, alternate, kidx, ps, qs, vals, anyRot, anySt,
    negateIf]

/-- R161, with both stores of its double negation (R158). -/
theorem c2_size_four :
    let r1 := reflect fam 64 x0 x3
    let r3 := reflect fam 64 x1 x2
    let r5 := reflect fam 64 r1.p r3.p
    let r7 := reflect fam 32 r1.q r3.q
    let t9 := negate r7.q
    let t10 := negate t9.val
    c2 fam 2 [x0, x1, x2, x3] =
      ⟨[r5.p, r5.q, r7.p, t10.val], r1.ovf || r3.ovf || r5.ovf || r7.ovf || t9.ovf || t10.ovf⟩ := by
  rw [c2]
  simp [c2_size_two, s4_size_two, c2Butterflies, signAdjust, ps, qs, vals, anyRot, anySt, nth, permS4_one, negateIf,
    List.range_succ, Bool.or_assoc]

/-- R162. -/
theorem s4_size_four :
    let r1 := reflect fam 16 x3 x0
    let r3 := reflect fam 48 x2 x1
    let t5 := negate r3.q
    let r6 := reflect fam 64 r1.p r3.p
    let r8 := reflect fam 64 r1.q t5.val
    let r10 := reflect fam 64 r6.q r8.q
    let t12 := negate r10.p
    let t13 := negate r8.p
    s4 fam 2 [x0, x1, x2, x3] =
      ⟨[r6.p, t12.val, t13.val, r10.q],
       r1.ovf || r3.ovf || t5.ovf || r6.ovf || r8.ovf || r10.ovf || t12.ovf || t13.ovf⟩ := by
  rw [s4]
  simp [c2_size_two, s4PreRotations, s4PostButterflies, s4FirstHalf, s4SecondHalf, alternate, kidx, ps, qs, vals,
    anyRot, anySt, negateIf, rotAt, sigma_one_one, nth, permC2_one, List.range_succ, Bool.or_assoc]

/-- R161, read backwards. -/
theorem ic2_size_four :
    let t9 := negate x3
    let t8 := negate t9.val
    let r7 := ireflect fam 32 x2 t8.val
    let r5 := ireflect fam 64 x0 x1
    let r3 := ireflect fam 64 r5.q r7.q
    let r1 := ireflect fam 64 r5.p r7.p
    ic2 fam 2 [x0, x1, x2, x3] =
      ⟨[r1.p, r3.p, r3.q, r1.q], t9.ovf || t8.ovf || r7.ovf || r5.ovf || r3.ovf || r1.ovf⟩ := by
  rw [ic2]
  simp [ic2_size_two, is4_size_two, ic2Butterflies, signAdjust, ps, qs, vals, anyRot, anySt, nth, permS4_one, negateIf,
    List.range_succ, Bool.or_assoc, Bool.or_comm, Bool.or_left_comm]

/-- R162, read backwards. -/
theorem is4_size_four :
    let t8 := negate x2
    let t10 := negate x1
    let r10 := ireflect fam 64 t10.val x3
    let r8 := ireflect fam 64 t8.val r10.q
    let r6 := ireflect fam 64 x0 r10.p
    let t4 := negate r8.q
    let r3 := ireflect fam 48 r6.q t4.val
    let r1 := ireflect fam 16 r6.p r8.p
    is4 fam 2 [x0, x1, x2, x3] =
      ⟨[r1.q, r3.q, r3.p, r1.p],
       t8.ovf || t10.ovf || r10.ovf || r8.ovf || r6.ovf || t4.ovf || r3.ovf || r1.ovf⟩ := by
  rw [is4]
  simp [ic2_size_two, is4NegFirst, is4PreRotations, is4PostButterflies, is4FirstHalf, is4SecondHalf, alternate, kidx, ps,
    qs, vals, anyRot, anySt, negateIf, rotAt, sigma_one_one, nth, permC2_one, List.range_succ, Bool.or_assoc,
    Bool.or_comm, Bool.or_left_comm]

end Listings

/-! ## The obligations -/

/-- Settles O35: the wrapped value, the range a store keeps, and what it then holds. -/
theorem storeWrapsAndRecords : Obligations.StoreWrapsAndRecords := by
  intro e
  refine ⟨store_val_toInt_emod e, store_ovf_eq_false_iff e, fun h => ?_⟩
  obtain ⟨h1, h2⟩ := (store_ovf_eq_false_iff e).1 h
  exact store_val_toInt_of_range h1 h2

/-- Settles O41: the rotations and the negation are the rules, the composers meet the spec's loops at every size, and the
sizes 1, 2 and 4 are its listings. -/
theorem smallComposersAreTheListings : Obligations.SmallComposersAreTheListings := by
  unfold Obligations.SmallComposersAreTheListings
  refine ⟨fun k a b => ⟨reflP_eq_rule k a b, ireflP_eq_rule k a b, reflF_eq_rule k a b⟩, negate_eq, fun fam n x hx => ?_,
    fun fam x hx => composers_size_one fam hx, fun fam x0 x1 x2 x3 => ?_⟩
  · exact ⟨c2_meets_loop fam n x, s4_meets_loop fam n x, ic2_meets_loop fam n hx, _, _, is4_meets_loop fam n x⟩
  · exact ⟨c2_size_two .., s4_size_two .., ic2_size_two .., is4_size_two .., c2_size_four .., s4_size_four ..,
      ic2_size_four .., is4_size_four ..⟩

end Sys2Proof.Machine
end

section
/-! PROOFS. The registers, the host port and the agents (10_state.md): what one step can do, said once as a relation between
the states, and the thirteen statements settled here (O8, O12, O15, O16, O17, O33, O34, O52 to O57). -/

namespace Sys2Proof.Machine

/-! ## Register accesses of the host

An offset outside the DMEM window is a register's or reserved, below the window or above it (R35, R61). -/

/-- Above the DMEM window, too, an offset reaches no DMEM word (R61). -/
theorem State.windowWord_eq_none (s : State) {off : Nat} (h : off < windowBase ∨ windowBase + 4 * s.nw ≤ off) :
    s.windowWord off = none := by
  simp [State.windowWord]; omega

/-- The aligned 32-bit write of an offset outside the DMEM window, at any time (R34, R35, R66). -/
theorem step_writeRegister {s : State} {off : Nat} {v : Word} {rest : List Input}
    (hi : s.inputs = .write .bits32 off v :: rest) (ht : s.hostTurn) (h4 : off % 4 = 0)
    (ho : off < windowBase ∨ windowBase + 4 * s.nw ≤ off ∧ off < apertureBytes) :
    step s = .next ((s.takeInput rest).writeRegister off v) := by
  have ha : off < apertureBytes := ho.elim (fun h => Nat.lt_trans h (by decide)) And.right
  have hw : (s.takeInput rest).windowWord off = none := State.windowWord_eq_none _ (ho.imp_right And.left)
  rw [step_host hi ht]
  simp [hostStep, ha, State.hostWrite, accessOk, h4, hw]

/-- The aligned 32-bit read of an offset outside the DMEM window, at any time (R34, R35, R66). -/
theorem step_readRegister {s : State} {off : Nat} {rest : List Input}
    (hi : s.inputs = .read .bits32 off :: rest) (ht : s.hostTurn) (h4 : off % 4 = 0)
    (ho : off < windowBase ∨ windowBase + 4 * s.nw ≤ off ∧ off < apertureBytes) :
    step s = .next { s.takeInput rest with readData := s.readRegister off :: s.readData } := by
  have ha : off < apertureBytes := ho.elim (fun h => Nat.lt_trans h (by decide)) And.right
  have hw : (s.takeInput rest).windowWord off = none := State.windowWord_eq_none _ (ho.imp_right And.left)
  have hr : (s.takeInput rest).readRegister off = s.readRegister off := rfl
  rw [step_host hi ht]
  simp [hostStep, ha, State.hostRead, accessOk, h4, hw, hr]

/-! ### What each register does with a write -/

theorem State.writeRegister_ctrl (s : State) (v : Word) : s.writeRegister 0x08 v = { s with ctrl := v.setWidth 4 } := rfl

theorem State.writeRegister_status (s : State) (v : Word) : s.writeRegister 0x0C v = s.writeStatus v := rfl

theorem State.writeRegister_cmd_of_idle {s : State} (h : s.pending = none) (v : Word) :
    s.writeRegister 0x10 v = s.accept v := by
  simp [State.writeRegister, State.busy, h]

theorem State.whenIdle_of_idle {s : State} (h : s.pending = none) (t : State) : s.whenIdle t = t := by
  simp [State.whenIdle, State.busy, h]

theorem State.writeRegister_src (s : State) (v : Word) :
    s.writeRegister 0x14 v = s.whenIdle { s with src := v.setWidth 16 } := rfl

theorem State.writeRegister_dst (s : State) (v : Word) :
    s.writeRegister 0x18 v = s.whenIdle { s with dst := v.setWidth 16 } := rfl

theorem State.writeRegister_stride (s : State) (v : Word) :
    s.writeRegister 0x1C v = s.whenIdle { s with stride := v.setWidth 16 } := rfl

/-- ID, CFG, CMDCNT and every offset from 0x24 on ignore a write (R35 to R37, R45). -/
theorem State.writeRegister_ignored (s : State) {off : Nat} (v : Word)
    (h : off = 0x00 ∨ off = 0x04 ∨ off = 0x20 ∨ 0x24 ≤ off) : s.writeRegister off v = s := by
  unfold State.writeRegister
  repeat rw [if_neg (by omega)]

/-! ### What each register reads as -/

theorem State.readRegister_ctrl (s : State) : s.readRegister 0x08 = s.ctrl.setWidth 32 := rfl

theorem State.readRegister_reserved (s : State) {off : Nat} (h : 0x24 ≤ off) : s.readRegister off = 0#32 := by
  unfold State.readRegister
  repeat rw [if_neg (by omega)]

/-- CFG's fixed fields are the number 0x01201800, below which LOG2NW stands (R37). -/
theorem State.cfgWord_eq (s : State) : s.cfgWord = BitVec.ofNat 32 (0x01201800 + s.params.log2nw) := by
  have h : ∀ k : Fin 9, 0#7 ++ 1#1 ++ 0#2 ++ 32#6 ++ 0#3 ++ 24#5 ++ 0#3 ++ BitVec.ofNat 5 (6 + k.val) =
      BitVec.ofNat 32 (0x01201800 + (6 + k.val)) := by decide
  exact h s.params.nwStep

/-! ### The bits of STATUS (R39) -/

section StatusBits
variable (s : State)

theorem State.status_getLsbD_busy : s.status.getLsbD 0 = s.busy := by
  simp only [State.status, BitVec.getLsbD_append]; simp
theorem State.status_getLsbD_done : s.status.getLsbD 1 = s.done := by
  simp only [State.status, BitVec.getLsbD_append]; simp
theorem State.status_getLsbD_err : s.status.getLsbD 2 = s.err := by
  simp only [State.status, BitVec.getLsbD_append]; simp
theorem State.status_getLsbD_ovf : s.status.getLsbD 3 = s.ovfFlag := by
  simp only [State.status, BitVec.getLsbD_append]; simp
theorem State.status_getLsbD_irq : s.status.getLsbD 8 = s.irq := by
  simp only [State.status, BitVec.getLsbD_append]; simp

theorem State.status_extractLsb_ecode : s.status.extractLsb' 4 4 = s.ecode.code := by
  refine BitVec.eq_of_getLsbD_eq fun i hi => ?_
  simp only [BitVec.getLsbD_extractLsb', State.status, BitVec.getLsbD_append]
  simp [hi]

theorem State.status_getLsbD_of_ge {i : Nat} (h : 9 ≤ i) : s.status.getLsbD i = false := by
  simp only [State.status, BitVec.getLsbD_append, BitVec.getLsbD_zero]
  repeat rw [if_neg (by omega)]

end StatusBits

/-! ## What a step can do -/

/-- What one input of the outside world leaves of a state it has been taken from: a read that only logs its data, a refused
read, a write, or the reset (R329). -/
inductive HostMove (s : State) : Input → State → Prop where
  | read (w : Width) (off : Nat) (v : Word) : HostMove s (.read w off) { s with readData := v :: s.readData }
  | refusedRead (w : Width) (off : Nat) (v : Word) (code : ErrCode)
      (h : code = .bus ∨ code = .hostbusy ∧ s.busy = true) :
      HostMove s (.read w off) { s.signalError code with readData := v :: s.readData }
  | write {t : State} (w : Width) (off : Nat) (v : Word) (h : Written s t) : HostMove s (.write w off v) t
  | reset : HostMove s .reset s.platformReset

theorem hostStep_move {s t : State} {x : Input} {rest : List Input} (h : hostStep s x rest = .next t) :
    HostMove (s.takeInput rest) x t := by
  rcases hostStep_cases h with ⟨w, off, rfl, -, rfl⟩ | ⟨w, off, v, rfl, -, rfl⟩ | ⟨rfl, rfl⟩
  · rcases State.hostRead_cases (s.takeInput rest) w off with hr | hr | ⟨hr, hb⟩ <;> rw [hr]
    · exact .read w off _
    · exact .refusedRead w off _ _ (.inl rfl)
    · exact .refusedRead w off _ _ (.inr ⟨rfl, hb⟩)
  · exact .write w off v (State.hostWrite_written _ w off v)
  · exact .reset

/-- On the engine's turn a step is a completion (R230, R330). -/
theorem step_engine_effect {s t : State} {c : Word} (hp : s.pending = some c) (ht : s.engineTurn) (h : step s = .next t) :
    Effect s t := by
  obtain ⟨t', hs, he⟩ := engineStep_effect c s
  rw [step_engine hp ht, hs] at h
  cases h
  exact he

/-- On the outside world's turn a step is its next input's (R329, R330). -/
theorem step_host_move {s t : State} {x : Input} {rest : List Input} (hi : s.inputs = x :: rest) (ht : s.hostTurn)
    (h : step s = .next t) : HostMove (s.takeInput rest) x t :=
  hostStep_move ((step_host hi ht).symm.trans h)

/-- Everything a step that answers a state can have done: a completion, one host move, or nothing (R330). -/
theorem step_next_cases {s t : State} (h : step s = .next t) :
    (∃ c, s.pending = some c ∧ s.engineTurn ∧ Effect s t) ∨
    (∃ x rest, s.inputs = x :: rest ∧ s.hostTurn ∧ HostMove (s.takeInput rest) x t) ∨
    (s.pending = none ∧ s.inputs = [] ∧ t = s) := by
  rcases step_cases s with ⟨c, hp, ht, -⟩ | ⟨x, rest, hi, ht, -⟩ | ⟨hp, hi, hs⟩
  · exact .inl ⟨c, hp, ht, step_engine_effect hp ht h⟩
  · exact .inr (.inl ⟨x, rest, hi, ht, step_host_move hi ht h⟩)
  · cases hs.symm.trans h
    exact .inr (.inr ⟨hp, hi, rfl⟩)

/-! ## The count of completions -/

/-- Every completion adds one, error or not (R45). -/
theorem Effect.cmdcnt {s t : State} (h : Effect s t) : t.cmdcnt = s.cmdcnt + 1#32 := by
  cases h <;> rfl

/-- No host write changes the count (R45). -/
theorem Written.cmdcnt {s t : State} (h : Written s t) : t.cmdcnt = s.cmdcnt := by
  cases h <;> rfl

theorem HostMove.cmdcnt {s t : State} {x : Input} (h : HostMove s x t) :
    t.cmdcnt = if x = .reset then 0#32 else s.cmdcnt := by
  cases h with
  | read w off v => rfl
  | refusedRead w off v code hc => rfl
  | write w off v hw => exact hw.cmdcnt
  | reset => rfl

/-! ## The invariant -/

/-- An idle state has no pending word to answer for. -/
theorem State.busyOk_of_idle {s : State} (h : s.pending = none) : s.busyOk := by
  intro c hc
  rw [h] at hc
  cases hc

theorem State.busyOk_accept (s : State) (c : Word) : (s.accept c).busyOk := by
  intro c' hc
  cases hc
  exact ⟨rfl, rfl⟩

/-- An error keeps ERR and ECODE in step: the first one sets both (R288). -/
theorem State.errOk_signalError {s : State} (h : s.errOk) {code : ErrCode} (hc : code ≠ .none) :
    (s.signalError code).errOk := by
  cases he : s.err with
  | false => simp [State.errOk, he, hc]
  | true => simpa [State.errOk, he] using h

/-- A STATUS write clears ERR and ECODE together or neither (R40). -/
theorem State.errOk_writeStatus {s : State} (h : s.errOk) (v : Word) : (s.writeStatus v).errOk := by
  rw [State.errOk, State.writeStatus_err, State.writeStatus_ecode]
  cases v.getLsbD 2 with
  | false => simpa [State.errOk] using h
  | true => simp

theorem State.busyOk_writeStatus {s : State} (h : s.busyOk) (v : Word) : (s.writeStatus v).busyOk := by
  intro c hc
  obtain ⟨hl, hd⟩ := h c hc
  exact ⟨hl, by simp [hd]⟩

theorem State.memOk_writeWord {s : State} (h : s.memOk) {i : Nat} (hi : i < s.nw) (v : Word) : (s.writeWord i v).memOk :=
  ⟨Memory.wf_writeWord h.1 i v, Memory.within_writeWord h.2 hi v⟩

/-- A scatter that passed the RANGE check stays below NW (R236, R283). -/
theorem State.memOk_scatter {s : State} (h : s.memOk) {m : Mode} {n : Nat} (hr : s.inRange m n = true) (y : List Word) :
    (s.scatter m n y).memOk := by
  refine ⟨Memory.wf_writeWords h.1 _ y, Memory.within_writeWords h.2 (fun a ha => ?_) y⟩
  obtain ⟨i, hi, rfl⟩ := (s.mem_scatterList m n a).1 ha
  exact ((s.inRange_iff m n).1 hr i hi).2

/-- Every completion keeps the invariant: it leaves the block idle, and an error is recorded with its code. -/
theorem State.Inv.effect {s t : State} (h : s.Inv) (he : Effect s t) : t.Inv := by
  obtain ⟨hm, herr, -⟩ := h
  cases he with
  | error code hc =>
    have hcode : code ≠ .none := by rcases hc with rfl | rfl <;> decide
    exact ⟨hm, State.errOk_signalError (s := { s with ovf := false }) herr hcode, State.busyOk_of_idle rfl⟩
  | quiet => exact ⟨hm, herr, State.busyOk_of_idle rfl⟩
  | src imm => exact ⟨hm, herr, State.busyOk_of_idle rfl⟩
  | dst imm => exact ⟨hm, herr, State.busyOk_of_idle rfl⟩
  | stride imm => exact ⟨hm, herr, State.busyOk_of_idle rfl⟩
  | scattered m n y hr => exact ⟨State.memOk_scatter hm hr y.vec, herr, State.busyOk_of_idle rfl⟩

theorem State.Inv.signalError {s : State} (h : s.Inv) {code : ErrCode} (hc : code ≠ .none) : (s.signalError code).Inv :=
  ⟨h.mem, State.errOk_signalError h.err hc, h.busy⟩

theorem State.Inv.written {s t : State} (h : s.Inv) (hw : Written s t) : t.Inv := by
  cases hw with
  | ignored => exact h
  | error code hc => exact h.signalError (by rcases hc with rfl | ⟨rfl | rfl, -⟩ <;> decide)
  | ctrl v => exact ⟨h.mem, h.err, h.busy⟩
  | status v => exact ⟨h.mem, State.errOk_writeStatus h.err v, State.busyOk_writeStatus h.busy v⟩
  | accepted c hb => exact ⟨h.mem, h.err, s.busyOk_accept c⟩
  | src v hb => exact ⟨h.mem, h.err, h.busy⟩
  | dst v hb => exact ⟨h.mem, h.err, h.busy⟩
  | stride v hb => exact ⟨h.mem, h.err, h.busy⟩
  | word i v hi hb => exact ⟨State.memOk_writeWord h.mem hi v, h.err, h.busy⟩

/-- Reset gives the invariant whatever the state was (R49, R321). -/
theorem State.inv_resetWith (p : Params) : (State.resetWith p).Inv :=
  ⟨⟨List.Pairwise.nil, fun _ h => nomatch h⟩, by simp [State.errOk, State.resetWith], State.busyOk_of_idle rfl⟩

theorem State.inv_platformReset (s : State) : s.platformReset.Inv := by
  obtain ⟨hm, he, hb⟩ := State.inv_resetWith s.params
  exact ⟨hm, he, hb⟩

theorem State.Inv.logRead {s : State} (h : s.Inv) (log : List Word) : State.Inv { s with readData := log } :=
  ⟨h.mem, h.err, h.busy⟩

theorem State.Inv.takeInput {s : State} (h : s.Inv) (rest : List Input) : (s.takeInput rest).Inv :=
  ⟨h.mem, h.err, h.busy⟩

theorem State.Inv.hostMove {s t : State} {x : Input} (h : s.Inv) (hm : HostMove s x t) : t.Inv := by
  cases hm with
  | read w off v => exact h.logRead _
  | refusedRead w off v code hc =>
    exact (h.signalError (by rcases hc with rfl | ⟨rfl, -⟩ <;> decide)).logRead _
  | write w off v hw => exact h.written hw
  | reset => exact s.inv_platformReset

/-! ## What a command depends on -/

/-- The meaning of a command word as a function of the state, the same in every state: a fixed completion, a register and
the completion, or the transfer frame (R230, R232 to R244, R282). -/
inductive Meaning : (State → State) → Prop where
  | illegal : Meaning (State.completeErr · .illegal)
  | nop : Meaning (State.completeOk · false)
  | setsrc (imm : Half) : Meaning fun s => State.completeOk { s with src := imm } false
  | setdst (imm : Half) : Meaning fun s => State.completeOk { s with dst := imm } false
  | setstr (imm : Half) : Meaning fun s => State.completeOk { s with stride := imm } false
  | transfer (m : Mode) (sz : BitVec 3) (f : List Word → Composed) : Meaning (transfer m sz f)

theorem exec_meaning (i : Instr) : ∃ g, Meaning g ∧ ∀ s, exec i s = .next (g s) := by
  cases i with
  | nop => exact ⟨_, .nop, fun _ => rfl⟩
  | setsrc imm => exact ⟨_, .setsrc imm, fun _ => rfl⟩
  | setdst imm => exact ⟨_, .setdst imm, fun _ => rfl⟩
  | setstr imm => exact ⟨_, .setstr imm, fun _ => rfl⟩
  | fdct sz fam raw => exact ⟨_, .transfer .fwd sz (fdctVec sz fam raw), fun _ => rfl⟩
  | idct sz fam raw => exact ⟨_, .transfer .inv sz (idctVec sz fam raw), fun _ => rfl⟩
  | fdst sz fam raw => exact ⟨_, .transfer .fwd sz (fdstVec sz fam raw), fun _ => rfl⟩
  | idst sz fam raw => exact ⟨_, .transfer .inv sz (idstVec sz fam raw), fun _ => rfl⟩
  | fidt sz => exact ⟨_, .transfer .fwd sz copyVec, fun _ => rfl⟩
  | iidt sz => exact ⟨_, .transfer .inv sz copyVec, fun _ => rfl⟩
  | permf sz tbl => exact ⟨_, .transfer .perm sz (permfVec sz tbl), fun _ => rfl⟩
  | permi sz tbl => exact ⟨_, .transfer .perm sz (permiVec sz tbl), fun _ => rfl⟩

theorem engineStep_meaning (c : Word) : ∃ g, Meaning g ∧ ∀ s, engineStep c s = .next (g s) := by
  unfold engineStep
  cases decode c with
  | command i => exact exec_meaning i
  | illegal why => exact ⟨_, .illegal, fun _ => rfl⟩

/-- The two states agree on all a command may read: NW, DMEM with its free draws, and the address registers (R48). -/
structure State.SameOperands (s s' : State) : Prop where
  params : s.params = s'.params
  dmem : s.dmem = s'.dmem
  epoch : s.epoch = s'.epoch
  src : s.src = s'.src
  dst : s.dst = s'.dst
  stride : s.stride = s'.stride

section SameOperands
variable {s s' : State} (h : s.SameOperands s')
include h

theorem State.SameOperands.gatherAddr (m : Mode) : s.gatherAddr m = s'.gatherAddr m := by
  funext i
  simp only [State.gatherAddr, h.src, h.stride]

theorem State.SameOperands.scatterList (m : Mode) (n : Nat) : s.scatterList m n = s'.scatterList m n := by
  have ha : s.scatterAddr m = s'.scatterAddr m := by
    funext i
    simp only [State.scatterAddr, h.dst, h.stride]
  rw [State.scatterList, State.scatterList, ha]

theorem State.SameOperands.inRange (m : Mode) (n : Nat) : s.inRange m n = s'.inRange m n := by
  have hnw : s.nw = s'.nw := congrArg Params.nw h.params
  rw [State.inRange, State.inRange, State.gatherList, State.gatherList, h.gatherAddr, h.scatterList, hnw]

theorem State.SameOperands.gather (m : Mode) (n : Nat) : s.gather m n = s'.gather m n := by
  have hr : s.readWord = s'.readWord := funext fun i => State.readWord_congr h.dmem h.epoch i
  rw [State.gather, State.gather, State.gatherList, State.gatherList, h.gatherAddr, hr]

/-- What a command does to DMEM, the address registers and the indicator depends on the operands alone (R48, R179). -/
theorem State.SameOperands.meaning {g : State → State} (hg : Meaning g) :
    (g s).SameOperands (g s') ∧ (g s).ovf = (g s').ovf := by
  obtain ⟨hp, hm, he, hsrc, hdst, hstr⟩ := id h
  cases hg with
  | illegal => exact ⟨⟨hp, hm, he, hsrc, hdst, hstr⟩, rfl⟩
  | nop => exact ⟨⟨hp, hm, he, hsrc, hdst, hstr⟩, rfl⟩
  | setsrc imm => exact ⟨⟨hp, hm, he, rfl, hdst, hstr⟩, rfl⟩
  | setdst imm => exact ⟨⟨hp, hm, he, hsrc, rfl, hstr⟩, rfl⟩
  | setstr imm => exact ⟨⟨hp, hm, he, hsrc, hdst, rfl⟩, rfl⟩
  | transfer m sz f =>
    cases hsz : sizeOk sz with
    | false =>
      rw [transfer_illegal f hsz, transfer_illegal f hsz]
      exact ⟨⟨hp, hm, he, hsrc, hdst, hstr⟩, rfl⟩
    | true =>
      cases hr : s.inRange m (size sz) with
      | false =>
        rw [transfer_range f hsz hr, transfer_range f hsz (h.inRange m _ ▸ hr)]
        exact ⟨⟨hp, hm, he, hsrc, hdst, hstr⟩, rfl⟩
      | true =>
        rw [transfer_ok f hsz hr, transfer_ok f hsz (h.inRange m _ ▸ hr), h.gather]
        refine ⟨⟨hp, ?_, he, hsrc, hdst, hstr⟩, rfl⟩
        simp [hm, h.scatterList]

end SameOperands

/-! ## The vector buffer -/

/-- The state with the words `v` in the vector buffer, and everything else as it is. -/
def State.withV (s : State) (v : Vector Word 64) : State := { s with vbuf := v }

/-- A completion gives the same state whatever V held, but for V: a transfer fills it from DMEM before it uses it (R47). -/
theorem Meaning.withV {g : State → State} (hg : Meaning g) (s : State) (v : Vector Word 64) :
    ∃ w, g (s.withV v) = (g s).withV w := by
  cases hg with
  | illegal => exact ⟨v, rfl⟩
  | nop => exact ⟨v, rfl⟩
  | setsrc imm => exact ⟨v, rfl⟩
  | setdst imm => exact ⟨v, rfl⟩
  | setstr imm => exact ⟨v, rfl⟩
  | transfer m sz f =>
    cases hsz : sizeOk sz with
    | false => exact ⟨v, by rw [transfer_illegal f hsz, transfer_illegal f hsz]; rfl⟩
    | true =>
      cases hr : s.inRange m (size sz) with
      | false => exact ⟨v, by rw [transfer_range f hsz hr, transfer_range (s := s.withV v) f hsz hr]; rfl⟩
      | true =>
        exact ⟨setVector v (f (s.gather m (size sz))).vec,
          by rw [transfer_ok f hsz hr, transfer_ok (s := s.withV v) f hsz hr]; rfl⟩

section HostAccess
variable (s : State) (v : Vector Word 64)

theorem State.whenIdle_withV (t : State) : (s.withV v).whenIdle (t.withV v) = (s.whenIdle t).withV v :=
  (apply_ite (State.withV · v) (s.busy = true) (s.signalError .hostbusy) t).symm

/-- No branch of a register write reads or writes V, so V can be set before or after it. -/
theorem State.writeRegister_withV (off : Nat) (x : Word) :
    (s.withV v).writeRegister off x = (s.writeRegister off x).withV v := by
  unfold State.writeRegister
  simp only [apply_ite (State.withV · v), ← State.whenIdle_withV]
  rfl

theorem State.hostWrite_withV (w : Width) (off : Nat) (x : Word) :
    (s.withV v).hostWrite w off x = (s.hostWrite w off x).withV v := by
  have hw : (s.withV v).windowWord off = s.windowWord off := rfl
  unfold State.hostWrite
  rw [hw]
  cases accessOk w off with
  | false => rfl
  | true =>
    cases s.windowWord off with
    | none => exact s.writeRegister_withV v off x
    | some i => exact s.whenIdle_withV v (s.writeWord i x)

theorem State.hostRead_withV (w : Width) (off : Nat) :
    (s.withV v).hostRead w off = ((s.hostRead w off).1, (s.hostRead w off).2.withV v) := by
  have hw : (s.withV v).windowWord off = s.windowWord off := rfl
  have hb : (s.withV v).busy = s.busy := rfl
  unfold State.hostRead
  rw [hw, hb]
  cases accessOk w off with
  | false => rfl
  | true =>
    cases s.windowWord off with
    | none => rfl
    | some i => cases s.busy <;> rfl

end HostAccess

/-- A host move answers the same and leaves the same state but for V (R47). -/
theorem hostStep_withV {s t : State} {x : Input} {rest : List Input} (h : hostStep s x rest = .next t) (v : Vector Word 64) :
    ∃ w, hostStep (s.withV v) x rest = .next (t.withV w) := by
  have htake : (s.withV v).takeInput rest = (s.takeInput rest).withV v := rfl
  rcases hostStep_cases h with ⟨w, off, rfl, ho, rfl⟩ | ⟨w, off, d, rfl, ho, rfl⟩ | ⟨rfl, rfl⟩
  · refine ⟨v, ?_⟩
    simp only [hostStep, if_pos ho, htake, State.hostRead_withV]
    rfl
  · exact ⟨v, by simp only [hostStep, if_pos ho, htake, State.hostWrite_withV]⟩
  · exact ⟨_, rfl⟩

theorem step_withV {s t : State} (h : step s = .next t) (v : Vector Word 64) :
    ∃ w, step (s.withV v) = .next (t.withV w) := by
  rcases step_cases s with ⟨c, hp, ht, hs⟩ | ⟨x, rest, hi, ht, hs⟩ | ⟨hp, hi, hs⟩ <;> rw [hs] at h
  · obtain ⟨g, hg, heq⟩ := engineStep_meaning c
    cases (heq s).symm.trans h
    obtain ⟨w, hw⟩ := hg.withV s v
    exact ⟨w, by rw [step_engine (s := s.withV v) hp ht, heq, hw]⟩
  · rw [step_host (s := s.withV v) hi ht]
    exact hostStep_withV h v
  · cases h
    exact ⟨v, step_idle (s := s.withV v) hp hi⟩

/-! ## The obligations -/

/-- Settles O15: a completion, a host move and idling each keep the invariant. -/
theorem everyStepKeepsTheInvariant : Obligations.EveryStepKeepsTheInvariant := by
  intro s t hinv h
  rcases step_next_cases h with ⟨c, -, -, he⟩ | ⟨x, rest, -, -, hm⟩ | ⟨-, -, rfl⟩
  · exact hinv.effect he
  · exact (hinv.takeInput rest).hostMove hm
  · exact hinv

/-- Settles O34: V is an operand of no completion and of no host move. -/
theorem vectorBufferIsUnobservable : Obligations.VectorBufferIsUnobservable :=
  fun _ _ v h => step_withV h v

/-- Settles O12: a completion adds one, a reset clears the count, any other host move keeps it. -/
theorem countIsOfCompletions : Obligations.CountIsOfCompletions :=
  ⟨rfl, fun _ _ h => ⟨fun _ hp ht => (step_engine_effect hp ht h).cmdcnt,
    fun ht _ _ hi => (step_host_move hi ht h).cmdcnt⟩⟩

/-- Settles O33: the command's meaning takes states of the same operands to states of the same operands. -/
theorem commandsIgnoreStatusAndControl : Obligations.CommandsIgnoreStatusAndControl := by
  intro i s s' hp hm he hsrc hdst hstr
  obtain ⟨g, hg, heq⟩ := exec_meaning i
  obtain ⟨hops, hovf⟩ := State.SameOperands.meaning ⟨hp, hm, he, hsrc, hdst, hstr⟩ hg
  exact ⟨g s, g s', heq s, heq s', hops.dmem, hops.src, hops.dst, hops.stride, hovf⟩

/-- Settles O54: the read returns STATUS, whose bits are its fields. -/
theorem statusReadsItsFields : Obligations.StatusReadsItsFields := by
  intro s rest hi ht
  have hcode (e : ErrCode) (he : s.ecode = e) : s.status.extractLsb' 4 4 = e.code :=
    he ▸ s.status_extractLsb_ecode
  exact ⟨_, s.status, step_readRegister hi ht rfl (.inl (by decide)), rfl, s.status_getLsbD_busy, s.status_getLsbD_done,
    s.status_getLsbD_err, s.status_getLsbD_ovf, hcode .none, hcode .illegal, hcode .range, hcode .overrun, hcode .bus,
    hcode .hostbusy, s.status_getLsbD_irq, fun _ => s.status_getLsbD_of_ge, rfl⟩

/-- Settles O55: the read only logs the register's value. -/
theorem registerReadsHaveNoSideEffect : Obligations.RegisterReadsHaveNoSideEffect := by
  intro s off rest hi ht h4 ho
  refine ⟨s.readRegister off, step_readRegister hi ht h4 ho, ?_, ?_, ?_, ?_, ?_, ?_, ?_, ?_, s.readRegister_reserved⟩ <;>
    rintro rfl
  · rfl
  · exact s.cfgWord_eq
  · exact BitVec.toNat_setWidth_of_le (show 4 ≤ 32 by decide)
  · rfl
  · exact BitVec.toNat_setWidth_of_le (show 16 ≤ 32 by decide)
  · exact BitVec.toNat_setWidth_of_le (show 16 ≤ 32 by decide)
  · exact BitVec.toNat_setWidth_of_le (show 16 ≤ 32 by decide)
  · rfl

/-- Settles O56: the offsets named are outside the DMEM window and ignore a write. -/
theorem reservedWritesAreIgnored : Obligations.ReservedWritesAreIgnored := by
  intro s off v rest hi ht h4 ho
  have hout : off < windowBase ∨ windowBase + 4 * s.nw ≤ off ∧ off < apertureBytes := by
    simp only [windowBase, apertureBytes]; omega
  rw [step_writeRegister hi ht h4 hout, State.writeRegister_ignored _ _ (by omega)]
  rfl

/-- Settles O8: the write of CMD by an idle block is the acceptance. -/
theorem commandWriteIsAccepted : Obligations.CommandWriteIsAccepted := by
  intro s c rest hi hp
  refine ⟨(s.takeInput rest).accept c, ?_, rfl, rfl, rfl, rfl, rfl, ⟨rfl, rfl, rfl⟩, rfl, rfl, rfl, rfl, rfl, rfl⟩
  rw [step_writeRegister hi (.inl hp) rfl (.inl (by decide)), State.writeRegister_cmd_of_idle (s := s.takeInput rest) hp]

/-- Settles O16: the reset state of the reference NW. -/
theorem resetMeetsTheInvariant : Obligations.ResetMeetsTheInvariant := State.inv_resetWith _

/-- Settles O17: each register of the reset state by its definition. -/
theorem resetValues : Obligations.ResetValues :=
  ⟨rfl, by decide, rfl, rfl, rfl, rfl, rfl, rfl, rfl, rfl, rfl, State.cfgWord_eq _, Memory.find_nil⟩

/-- Settles O52: the register keeps the word cut to four bits, and is read zero-extended. -/
theorem controlWriteKeepsFourBits : Obligations.ControlWriteKeepsFourBits := by
  intro s v rest hi ht
  refine ⟨_, step_writeRegister hi ht rfl (.inl (by decide)), fun i => ?_, fun i => ?_, rfl⟩
  · exact BitVec.getLsbD_setWidth 4 v i
  · rw [State.readRegister_ctrl, State.writeRegister_ctrl, BitVec.getLsbD_setWidth, BitVec.getLsbD_setWidth]
    by_cases hlow : i < 4
    · simp [hlow, show i < 32 by omega]
    · simp [hlow]

/-- Settles O53: a STATUS write clears the flags its bits name. -/
theorem statusWriteClearsItsBits : Obligations.StatusWriteClearsItsBits := by
  intro s v rest hi ht
  rw [step_writeRegister hi ht rfl (.inl (by decide)), State.writeRegister_status]
  have hclear (flag b : Bool) : (flag && !b) = if b then false else flag := by cases b <;> simp
  simp only [State.writeStatus, hclear]
  rfl

/-- Settles O57: an idle block takes the low half of the word. -/
theorem addressRegisterWriteWhileIdle : Obligations.AddressRegisterWriteWhileIdle := by
  intro s v rest hp
  have hidle (t : State) : (s.takeInput rest).whenIdle t = t := State.whenIdle_of_idle (s := s.takeInput rest) hp t
  refine ⟨fun hi => ?_, fun hi => ?_, fun hi => ?_⟩ <;>
    rw [step_writeRegister hi (.inl hp) rfl (.inl (by decide)), BitVec.ofNat_toNat]
  · rw [State.writeRegister_src, hidle]; rfl
  · rw [State.writeRegister_dst, hidle]; rfl
  · rw [State.writeRegister_stride, hidle]; rfl

end Sys2Proof.Machine
end

section
/-! PROOFS. DMEM as the host reaches it (20_memory.md): what stays fixed while a command is pending, the window while the
block is idle, and the accesses the port does not accept. The three statements settled here are O13, O59 and O60. -/

namespace Sys2Proof.Machine

/-! ## While a command is pending -/

/-- `t` has the pending command of `s` and every operand that command will read (R47, R48, R65). -/
structure State.CommandKept (s t : State) : Prop where
  operands : t.SameOperands s
  pending : t.pending = s.pending
  lastCmd : t.lastCmd = s.lastCmd
  vbuf : t.vbuf = s.vbuf

/-- The control and status fields and the log of reads are no part of the command (R48). -/
theorem State.commandKept_status (s : State) (ctrl : BitVec 4) (done err ovfFlag : Bool) (ecode : ErrCode)
    (readData : List Word) : s.CommandKept { s with ctrl, done, err, ovfFlag, ecode, readData } :=
  ⟨⟨rfl, rfl, rfl, rfl, rfl, rfl⟩, rfl, rfl, rfl⟩

/-- While BUSY = 1 a host write leaves the command as it is: the writes that would change it need an idle block (R65,
R287). -/
theorem Written.commandKept {s t : State} (h : Written s t) (hb : s.busy = true) : s.CommandKept t := by
  have not_idle : s.busy ≠ false := by rw [hb]; decide
  cases h with
  | ignored => exact s.commandKept_status ..
  | error code hc => exact s.commandKept_status ..
  | ctrl v => exact s.commandKept_status ..
  | status v => exact s.commandKept_status ..
  | accepted c hidle => exact absurd hidle not_idle
  | src v hidle => exact absurd hidle not_idle
  | dst v hidle => exact absurd hidle not_idle
  | stride v hidle => exact absurd hidle not_idle
  | word i v hi hidle => exact absurd hidle not_idle

/-- While BUSY = 1 only a reset changes the command (R65, R320). -/
theorem HostMove.commandKept {s t : State} {x : Input} (h : HostMove s x t) (hb : s.busy = true) (hx : x ≠ .reset) :
    s.CommandKept t := by
  cases h with
  | read w off v => exact s.commandKept_status ..
  | refusedRead w off v code hc => exact s.commandKept_status ..
  | write w off v hw => exact hw.commandKept hb
  | reset => exact absurd rfl hx

/-! ## The DMEM window while idle -/

/-- A host write of DMEM word i by way of the window, the block idle (R61, R69). -/
theorem step_writeDmem_of_idle {s : State} {i : Nat} {v : Word} {rest : List Input} (hp : s.pending = none) (h : i < s.nw)
    (hi : s.inputs = .write .bits32 (windowBase + 4 * i) v :: rest) :
    step s = .next ((s.takeInput rest).writeWord i v) := by
  rw [step_host hi (.inl hp), hostStep_writeDmem s v rest h, State.whenIdle_of_idle (s := s.takeInput rest) hp]

/-- A host read of DMEM word i by way of the window, the block idle (R61, R69). -/
theorem step_readDmem_of_idle {s : State} {i : Nat} {rest : List Input} (hp : s.pending = none) (h : i < s.nw)
    (hi : s.inputs = .read .bits32 (windowBase + 4 * i) :: rest) :
    step s = .next { s.takeInput rest with readData := s.readWord i :: s.readData } := by
  have hb : s.busy = false := by rw [State.busy, hp]; rfl
  rw [step_host hi (.inl hp), hostStep_readDmem s rest h, hb]
  rfl

/-! ## Accesses the port does not accept -/

/-- The port does not accept an access of another width, nor one off a word boundary (R63). -/
theorem accessOk_eq_false_iff (w : Width) (off : Nat) : accessOk w off = false ↔ w ≠ .bits32 ∨ off % 4 ≠ 0 := by
  rw [accessOk, Bool.and_eq_false_iff, decide_eq_false_iff_not, decide_eq_false_iff_not]

/-! ## The obligations -/

/-- Settles O13: the step is a host move other than a reset, and such a move leaves a pending command as it is. -/
theorem busyStateIsFrozenForTheHost : Obligations.BusyStateIsFrozenForTheHost := by
  intro s t c x rest hp hd hi hx h
  have hb : (s.takeInput rest).busy = true := by rw [State.busy, State.takeInput_pending, hp]; rfl
  obtain ⟨⟨-, hm, he, hsrc, hdst, hstr⟩, hpend, hl, hv⟩ := (step_host_move hi (.inr hd) h).commandKept hb hx
  exact ⟨hpend.trans hp, hm, State.readByte_congr hm he, ⟨hsrc, hdst, hstr⟩, hl, hv⟩

/-- Settles O59: the write is the word's write, and the read logs the word. -/
theorem dmemWindowWhileIdle : Obligations.DmemWindowWhileIdle := by
  intro s i v rest hp hlt
  refine ⟨fun hi => ⟨_, step_writeDmem_of_idle hp hlt hi, ?_, fun a ha => ?_, rfl⟩,
    fun hi => step_readDmem_of_idle hp hlt hi⟩
  · rw [State.readWord_writeWord, if_pos rfl]
  · rw [State.readByte_writeWord, if_neg ha]
    exact State.readByte_congr rfl rfl a

/-- Settles O60: the port checks width and alignment first, and a failed check signals BUS. -/
theorem badAccessIsABusError : Obligations.BadAccessIsABusError := by
  intro s w off v rest ht ha hbad
  have hno : accessOk w off = false := (accessOk_eq_false_iff w off).2 hbad
  exact ⟨fun hi => (step_host hi ht).trans (hostStep_badWrite s v rest ha hno),
    fun hi => (step_host hi ht).trans (hostStep_badRead s rest ha hno)⟩

end Sys2Proof.Machine
end

section
/-! PROOFS. The encoding (30_encoding.md): the fields of an encoded word, a word put together from its fields, the decoder
format by format, and the five statements settled here (O1 to O5). -/

namespace Sys2Proof

/-! ## The fields of an encoded word (R92 to R95) -/

section Fields

variable (op : BitVec 4) (imm : Half) (raw : Bool) (fam : BitVec 1) (sz : BitVec 3) (kind : BitVec 2) (tbl : Table)
  (dir : BitVec 1)

@[simp] theorem op_encodeS : (encodeS op imm).extractLsb' 28 4 = op := by
  rw [encodeS, BitVec.extractLsb'_append_eq_of_le (by decide)]
  exact BitVec.extractLsb'_append_eq_left

@[simp] theorem zeros_encodeS : (encodeS op imm).extractLsb' 16 12 = 0#12 := by
  rw [encodeS, BitVec.extractLsb'_append_eq_of_le (by decide)]
  exact BitVec.extractLsb'_append_eq_right

@[simp] theorem imm_encodeS : (encodeS op imm).extractLsb' 0 16 = imm := BitVec.extractLsb'_append_eq_right

@[simp] theorem op_encodeT : (encodeT raw fam sz kind dir).extractLsb' 28 4 = 0x4#4 := by
  rw [encodeT]
  iterate 5 rw [BitVec.extractLsb'_append_eq_of_le (by decide)]
  exact BitVec.extractLsb'_append_eq_left

@[simp] theorem zeros_encodeT : (encodeT raw fam sz kind dir).extractLsb' 8 20 = 0#20 := by
  rw [encodeT]
  iterate 5 rw [BitVec.extractLsb'_append_eq_of_le (by decide)]
  exact BitVec.extractLsb'_append_eq_right

@[simp] theorem raw_encodeT : (encodeT raw fam sz kind dir)[7] = raw := by
  rw [encodeT]
  iterate 4 rw [BitVec.getElem_append, dif_neg (by decide)]
  rw [BitVec.getElem_append, dif_pos (by decide)]
  simp

@[simp] theorem fam_encodeT : (encodeT raw fam sz kind dir)[6] = fam[0] := by
  rw [encodeT]
  iterate 3 rw [BitVec.getElem_append, dif_neg (by decide)]
  rw [BitVec.getElem_append, dif_pos (by decide)]

@[simp] theorem size_encodeT : (encodeT raw fam sz kind dir).extractLsb' 3 3 = sz := by
  rw [encodeT]
  iterate 2 rw [BitVec.extractLsb'_append_eq_of_le (by decide)]
  exact BitVec.extractLsb'_append_eq_right

@[simp] theorem kind_encodeT : (encodeT raw fam sz kind dir).extractLsb' 1 2 = kind := by
  rw [encodeT, BitVec.extractLsb'_append_eq_of_le (by decide)]
  exact BitVec.extractLsb'_append_eq_right

@[simp] theorem dir_encodeT : (encodeT raw fam sz kind dir)[0] = dir[0] := by
  rw [encodeT, BitVec.getElem_append, dif_pos (by decide)]

@[simp] theorem op_encodeP : (encodeP sz tbl dir).extractLsb' 28 4 = 0x5#4 := by
  rw [encodeP]
  iterate 4 rw [BitVec.extractLsb'_append_eq_of_le (by decide)]
  exact BitVec.extractLsb'_append_eq_left

@[simp] theorem zeros_encodeP : (encodeP sz tbl dir).extractLsb' 6 22 = 0#22 := by
  rw [encodeP]
  iterate 4 rw [BitVec.extractLsb'_append_eq_of_le (by decide)]
  exact BitVec.extractLsb'_append_eq_right

@[simp] theorem size_encodeP : (encodeP sz tbl dir).extractLsb' 3 3 = sz := by
  rw [encodeP]
  iterate 3 rw [BitVec.extractLsb'_append_eq_of_le (by decide)]
  exact BitVec.extractLsb'_append_eq_right

@[simp] theorem zero_encodeP : (encodeP sz tbl dir)[2] = false := by
  rw [encodeP]
  iterate 2 rw [BitVec.getElem_append, dif_neg (by decide)]
  rw [BitVec.getElem_append, dif_pos (by decide)]
  simp

@[simp] theorem table_encodeP : (encodeP sz tbl dir)[1] = tbl.bit[0] := by
  rw [encodeP, BitVec.getElem_append, dif_neg (by decide), BitVec.getElem_append, dif_pos (by decide)]

@[simp] theorem dir_encodeP : (encodeP sz tbl dir)[0] = dir[0] := by
  rw [encodeP, BitVec.getElem_append, dif_pos (by decide)]

end Fields

@[simp] theorem familyOfBit_bit (fam : Family) : familyOfBit fam.bit[0] = fam := by cases fam <;> rfl

@[simp] theorem tableOfBit_bit (tbl : Table) : tableOfBit tbl.bit[0] = tbl := by cases tbl <;> rfl

@[simp] theorem bit_familyOfBit (b : Bool) : (familyOfBit b).bit = BitVec.ofBool b := by cases b <;> rfl

@[simp] theorem bit_tableOfBit (b : Bool) : (tableOfBit b).bit = BitVec.ofBool b := by cases b <;> rfl

/-- A size code is legal when the decoder's test lets it through (R96, R99). -/
theorem sizeOk_iff (sz : BitVec 3) : sizeOk sz = true ↔ ¬4 < sz.toNat := by rw [sizeOk, decide_eq_true_iff, not_lt]

/-! ## A word put together from its fields (R93 to R95) -/

section FromFields

variable {c : Word} {op : BitVec 4} {raw : Bool} {fam dir : BitVec 1} {kind : BitVec 2}

theorem ofBool_getLsbD_eq_extractLsb' (c : Word) (i : Nat) : BitVec.ofBool (c.getLsbD i) = c.extractLsb' i 1 := by
  rw [BitVec.getLsbD_eq_extractLsb']
  generalize c.extractLsb' i 1 = b
  revert b; decide

theorem encodeS_of_fields (hop : c.extractLsb' 28 4 = op) (h0 : c.extractLsb' 16 12 = 0#12) :
    encodeS op (c.extractLsb' 0 16) = c := by
  rw [encodeS, ← hop, ← h0]
  iterate 2 rw [BitVec.extractLsb'_append_extractLsb'_eq_extractLsb' (by omega)]
  exact BitVec.extractLsb'_eq_self

theorem encodeT_of_fields (hop : c.extractLsb' 28 4 = 0x4#4) (h0 : c.extractLsb' 8 20 = 0#20) (hraw : c.getLsbD 7 = raw)
    (hfam : BitVec.ofBool (c.getLsbD 6) = fam) (hkind : c.extractLsb' 1 2 = kind)
    (hdir : BitVec.ofBool (c.getLsbD 0) = dir) : encodeT raw fam (c.extractLsb' 3 3) kind dir = c := by
  rw [encodeT, ← hop, ← h0, ← hraw, ← hfam, ← hkind, ← hdir]
  iterate 3 rw [ofBool_getLsbD_eq_extractLsb']
  iterate 6 rw [BitVec.extractLsb'_append_extractLsb'_eq_extractLsb' (by omega)]
  exact BitVec.extractLsb'_eq_self

theorem encodeP_of_fields (hop : c.extractLsb' 28 4 = 0x5#4) (h0 : c.extractLsb' 6 22 = 0#22)
    (h2 : BitVec.ofBool (c.getLsbD 2) = 0#1) (hdir : BitVec.ofBool (c.getLsbD 0) = dir) :
    encodeP (c.extractLsb' 3 3) (tableOfBit (c.getLsbD 1)) dir = c := by
  rw [encodeP, ← hop, ← h0, bit_tableOfBit, ← h2, ← hdir]
  iterate 3 rw [ofBool_getLsbD_eq_extractLsb']
  iterate 5 rw [BitVec.extractLsb'_append_extractLsb'_eq_extractLsb' (by omega)]
  exact BitVec.extractLsb'_eq_self

/-- FAM and RAW are both 0 when their two-bit field is. -/
theorem variant_eq_zero_iff : c.extractLsb' 6 2 = 0#2 ↔ c.getLsbD 6 = false ∧ c.getLsbD 7 = false := by
  have h : c.extractLsb' 6 2 = BitVec.ofBool (c.getLsbD 7) ++ BitVec.ofBool (c.getLsbD 6) := by
    rw [ofBool_getLsbD_eq_extractLsb', ofBool_getLsbD_eq_extractLsb',
      BitVec.extractLsb'_append_extractLsb'_eq_extractLsb' (by omega)]
  rw [h]
  cases c.getLsbD 6 <;> cases c.getLsbD 7 <;> decide

/-- Format T with FAM and RAW as they stand (R94). -/
theorem encodeT_transform_of_fields (hop : c.extractLsb' 28 4 = 0x4#4) (h0 : c.extractLsb' 8 20 = 0#20)
    (hkind : c.extractLsb' 1 2 = kind) (hdir : BitVec.ofBool (c.getLsbD 0) = dir) :
    encodeT (c.getLsbD 7) (familyOfBit (c.getLsbD 6)).bit (c.extractLsb' 3 3) kind dir = c :=
  encodeT_of_fields hop h0 rfl (bit_familyOfBit _).symm hkind hdir

/-- Format T with FAM and RAW 0, as FIDT and IIDT need them (R100). -/
theorem encodeT_identity_of_fields (hop : c.extractLsb' 28 4 = 0x4#4) (h0 : c.extractLsb' 8 20 = 0#20)
    (hvar : c.extractLsb' 6 2 = 0#2) (hkind : c.extractLsb' 1 2 = kind) (hdir : BitVec.ofBool (c.getLsbD 0) = dir) :
    encodeT false 0#1 (c.extractLsb' 3 3) kind dir = c := by
  obtain ⟨hfam, hraw⟩ := variant_eq_zero_iff.1 hvar
  exact encodeT_of_fields hop h0 hraw (by rw [hfam]; rfl) hkind hdir

theorem eq_zero_of_fields (hop : c.extractLsb' 28 4 = 0x0#4) (h0 : c.extractLsb' 0 28 = 0#28) : c = 0#32 :=
  calc c = c.extractLsb' 28 4 ++ c.extractLsb' 0 28 :=
      ((BitVec.extractLsb'_append_extractLsb'_eq_extractLsb' (Nat.zero_add 28).symm).trans BitVec.extractLsb'_eq_self).symm
    _ = 0x0#4 ++ 0#28 := by rw [hop, h0]
    _ = 0#32 := rfl

end FromFields

/-! ## The decoder, one equation for each OP (R99) -/

section ByOp

variable {c : Word}

theorem decode_op_zero (hop : c.extractLsb' 28 4 = 0x0#4) :
    decode c = if c.extractLsb' 0 28 = 0#28 then .command .nop else .illegal .mustBeZero := by
  simp [decode, hop]

theorem decode_op_setter {op : BitVec 4} (hop : c.extractLsb' 28 4 = op) (h : op = 0x1#4 ∨ op = 0x2#4 ∨ op = 0x3#4) :
    decode c = if c.extractLsb' 16 12 ≠ 0#12 then .illegal .mustBeZero
      else if op = 0x1#4 then .command (.setsrc (c.extractLsb' 0 16))
      else if op = 0x2#4 then .command (.setdst (c.extractLsb' 0 16))
      else .command (.setstr (c.extractLsb' 0 16)) := by
  rcases h with rfl | rfl | rfl <;> simp [decode, hop]

theorem decode_op_transform (hop : c.extractLsb' 28 4 = 0x4#4) : decode c = decodeT c := by simp [decode, hop]

theorem decode_op_permute (hop : c.extractLsb' 28 4 = 0x5#4) : decode c = decodeP c := by simp [decode, hop]

theorem decode_op_reserved (hop : 6 ≤ (c.extractLsb' 28 4).toNat) : decode c = .illegal .reservedOp := by
  have hne (k : BitVec 4) (hk : k.toNat < 6) : c.extractLsb' 28 4 ≠ k := by rintro rfl; omega
  simp [decode, hne]

theorem op_cases (op : BitVec 4) :
    op = 0x0#4 ∨ (op = 0x1#4 ∨ op = 0x2#4 ∨ op = 0x3#4) ∨ op = 0x4#4 ∨ op = 0x5#4 ∨ 6 ≤ op.toNat := by
  revert op; decide

end ByOp

/-! ## Decoding an encoded command -/

theorem decode_encode {i : Instr} (h : i.WellFormed) : decode (encode i) = .command i := by
  cases i with
  | nop => decide
  | setsrc imm | setdst imm | setstr imm => simp [encode, decode_op_setter (op_encodeS _ imm)]
  | fdct sz fam raw | idct sz fam raw | fdst sz fam raw | idst sz fam raw =>
    simp [encode, decode_op_transform, decodeT, (sizeOk_iff sz).1 h]
  | fidt sz | iidt sz =>
    simp [encode, decode_op_transform, decodeT, variant_eq_zero_iff, (sizeOk_iff sz).1 h]
  | permf sz tbl | permi sz tbl =>
    simp [encode, decode_op_permute, decodeP, (sizeOk_iff sz).1 h]

/-! ## The command a word decodes to -/

section Inversion

variable {c : Word} {i : Instr}

theorem kind_eq_two (kind : BitVec 2) : kind ≠ 3#2 → kind ≠ 0#2 → kind ≠ 1#2 → kind = 2#2 := by
  revert kind; decide

theorem wellFormed_and_encode_of_decodeT (hop : c.extractLsb' 28 4 = 0x4#4) (h : decodeT c = .command i) :
    i.WellFormed ∧ encode i = c := by
  simp only [decodeT, ne_eq, ite_not] at h
  split_ifs at h with h0 h3 hsz hvar hk0 hd hk1 hd hd
  all_goals
    obtain rfl := Decoded.command.inj h
    refine ⟨(sizeOk_iff _).2 hsz, ?_⟩
  · exact encodeT_transform_of_fields hop h0 hk0 (by simp only [hd]; rfl)
  · exact encodeT_transform_of_fields hop h0 hk0 (by simp only [hd]; rfl)
  · exact encodeT_transform_of_fields hop h0 hk1 (by simp only [hd]; rfl)
  · exact encodeT_transform_of_fields hop h0 hk1 (by simp only [hd]; rfl)
  all_goals
    have hk2 : c.extractLsb' 1 2 = 2#2 := kind_eq_two _ h3 hk0 hk1
    exact encodeT_identity_of_fields hop h0 (not_not.1 fun hne => hvar ⟨hk2, hne⟩) hk2 (by simp only [hd]; rfl)

theorem wellFormed_and_encode_of_decodeP (hop : c.extractLsb' 28 4 = 0x5#4) (h : decodeP c = .command i) :
    i.WellFormed ∧ encode i = c := by
  simp only [decodeP, ne_eq, ite_not] at h
  split_ifs at h with h0 h2 hsz hd
  all_goals
    obtain rfl := Decoded.command.inj h
    exact ⟨(sizeOk_iff _).2 hsz, encodeP_of_fields hop h0 (by simp only [h2]; rfl) (by simp only [hd]; rfl)⟩

theorem wellFormed_and_encode_of_decode (h : decode c = .command i) : i.WellFormed ∧ encode i = c := by
  obtain hop | hop | hop | hop | hop := op_cases (c.extractLsb' 28 4)
  · rw [decode_op_zero hop] at h
    split_ifs at h with h0
    obtain rfl := Decoded.command.inj h
    exact ⟨rfl, (eq_zero_of_fields hop h0).symm⟩
  · rw [decode_op_setter rfl hop] at h
    simp only [ne_eq, ite_not] at h
    split_ifs at h with h0 h1 h2
    all_goals
      obtain rfl := Decoded.command.inj h
      refine ⟨rfl, encodeS_of_fields ?_ h0⟩
    · exact h1
    · exact h2
    · exact (hop.resolve_left h1).resolve_left h2
  · exact wellFormed_and_encode_of_decodeT hop (decode_op_transform hop ▸ h)
  · exact wellFormed_and_encode_of_decodeP hop (decode_op_permute hop ▸ h)
  · rw [decode_op_reserved hop] at h
    cases h

end Inversion

/-! ## The ILLEGAL words (R100) -/

/-- The word is ILLEGAL, whatever the reason (R282). -/
def Decoded.IsIllegal (d : Decoded) : Prop := ∃ why, d = .illegal why

@[simp] theorem Decoded.isIllegal_illegal (why : IllegalReason) : (Decoded.illegal why).IsIllegal := ⟨why, rfl⟩

@[simp] theorem Decoded.not_isIllegal_command (i : Instr) : ¬(Decoded.command i).IsIllegal := by
  rintro ⟨why, h⟩
  cases h

@[simp] theorem Decoded.isIllegal_ite {p : Prop} [Decidable p] (d e : Decoded) :
    (if p then d else e).IsIllegal ↔ if p then d.IsIllegal else e.IsIllegal := by
  split <;> rfl

section Illegal

variable {c : Word}

theorem decodeT_isIllegal_iff : (decodeT c).IsIllegal ↔
    c.extractLsb' 8 20 ≠ 0#20 ∨ c.extractLsb' 1 2 = 3#2 ∨ 5 ≤ (c.extractLsb' 3 3).toNat ∨
      (c.extractLsb' 1 2 = 2#2 ∧ (c.getLsbD 6 = true ∨ c.getLsbD 7 = true)) := by
  have hvar : c.extractLsb' 6 2 ≠ 0#2 ↔ c.getLsbD 6 = true ∨ c.getLsbD 7 = true := by
    rw [ne_eq, variant_eq_zero_iff, not_and_or, Bool.not_eq_false, Bool.not_eq_false]
  simp [decodeT, hvar, Nat.succ_le_iff, or_iff_not_imp_left]

theorem decodeP_isIllegal_iff : (decodeP c).IsIllegal ↔
    c.extractLsb' 6 22 ≠ 0#22 ∨ c.getLsbD 2 = true ∨ 5 ≤ (c.extractLsb' 3 3).toNat := by
  simp [decodeP, Nat.succ_le_iff, or_iff_not_imp_left]

end Illegal

/-! ## The opcode map (R98) -/

section Rows

variable {c m p : Word} {op : BitVec 4} {kind : BitVec 2} {dir : BitVec 1}

/-- A field that the row's mask covers has the value the row's match gives it. -/
theorem extractLsb'_of_masked {s n : Nat} (h : c &&& m = p) (hm : m.extractLsb' s n = BitVec.allOnes n) :
    c.extractLsb' s n = p.extractLsb' s n := by
  rw [← h, BitVec.extractLsb'_and, hm, BitVec.and_allOnes]

theorem ofBool_getLsbD_of_masked {i : Nat} (h : c &&& m = p) (hm : m.extractLsb' i 1 = BitVec.allOnes 1) :
    BitVec.ofBool (c.getLsbD i) = p.extractLsb' i 1 :=
  (ofBool_getLsbD_eq_extractLsb' c i).trans (extractLsb'_of_masked h hm)

/-- Two rows that match one word agree on the bits both masks cover. -/
theorem masked_matches_agree {m₁ m₂ p₁ p₂ : Word} (h₁ : c &&& m₁ = p₁) (h₂ : c &&& m₂ = p₂) :
    p₁ &&& m₂ = p₂ &&& m₁ := by
  rw [← h₁, ← h₂, BitVec.and_assoc, BitVec.and_comm m₁, BitVec.and_assoc]

theorem eq_of_patterns_agree :
    ∀ r₁ ∈ opcodeMap, ∀ r₂ ∈ opcodeMap, r₁.pattern &&& r₂.mask = r₂.pattern &&& r₁.mask → r₁ = r₂ := by
  decide

theorem encodeS_of_masked (h : c &&& 0xFFFF0000#32 = p) (hop : p.extractLsb' 28 4 = op)
    (h0 : p.extractLsb' 16 12 = 0#12) : encodeS op (c.extractLsb' 0 16) = c :=
  encodeS_of_fields ((extractLsb'_of_masked h rfl).trans hop) ((extractLsb'_of_masked h rfl).trans h0)

theorem encodeT_of_masked (h : c &&& 0xFFFFFF07#32 = p) (hop : p.extractLsb' 28 4 = 0x4#4) (h0 : p.extractLsb' 8 20 = 0#20)
    (hkind : p.extractLsb' 1 2 = kind) (hdir : p.extractLsb' 0 1 = dir) :
    encodeT (c.getLsbD 7) (familyOfBit (c.getLsbD 6)).bit (c.extractLsb' 3 3) kind dir = c :=
  encodeT_transform_of_fields ((extractLsb'_of_masked h rfl).trans hop) ((extractLsb'_of_masked h rfl).trans h0)
    ((extractLsb'_of_masked h rfl).trans hkind) ((ofBool_getLsbD_of_masked h rfl).trans hdir)

theorem encodeT_identity_of_masked (h : c &&& 0xFFFFFFC7#32 = p) (hop : p.extractLsb' 28 4 = 0x4#4)
    (h0 : p.extractLsb' 8 20 = 0#20) (hvar : p.extractLsb' 6 2 = 0#2) (hkind : p.extractLsb' 1 2 = kind)
    (hdir : p.extractLsb' 0 1 = dir) :
    encodeT false 0#1 (c.extractLsb' 3 3) kind dir = c :=
  encodeT_identity_of_fields ((extractLsb'_of_masked h rfl).trans hop) ((extractLsb'_of_masked h rfl).trans h0)
    ((extractLsb'_of_masked h rfl).trans hvar) ((extractLsb'_of_masked h rfl).trans hkind)
    ((ofBool_getLsbD_of_masked h rfl).trans hdir)

theorem encodeP_of_masked (h : c &&& 0xFFFFFFC5#32 = p) (hop : p.extractLsb' 28 4 = 0x5#4) (h0 : p.extractLsb' 6 22 = 0#22)
    (h2 : p.extractLsb' 2 1 = 0#1) (hdir : p.extractLsb' 0 1 = dir) :
    encodeP (c.extractLsb' 3 3) (tableOfBit (c.getLsbD 1)) dir = c :=
  encodeP_of_fields ((extractLsb'_of_masked h rfl).trans hop) ((extractLsb'_of_masked h rfl).trans h0)
    ((ofBool_getLsbD_of_masked h rfl).trans h2) ((ofBool_getLsbD_of_masked h rfl).trans hdir)

/-- A word that a row matches is the word of a command of that row, well-formed when the row's size code is legal. -/
theorem exists_encode_of_matches {r : OpcodeRow} (hr : r ∈ opcodeMap) (h : c &&& r.mask = r.pattern) :
    ∃ i : Instr, i.mnemonic = r.mnemonic ∧ encode i = c ∧
      ((r.sized = true → (c.extractLsb' 3 3).toNat ≤ 4) → i.WellFormed) := by
  have hok (hs : true = true → (c.extractLsb' 3 3).toNat ≤ 4) : sizeOk (c.extractLsb' 3 3) = true :=
    (sizeOk_iff _).2 (hs rfl).not_gt
  simp only [opcodeMap, List.mem_cons, List.not_mem_nil, or_false] at hr
  obtain rfl | rfl | rfl | rfl | rfl | rfl | rfl | rfl | rfl | rfl | rfl | rfl := hr
  · exact ⟨.nop, rfl, (eq_zero_of_fields (extractLsb'_of_masked h rfl) (extractLsb'_of_masked h rfl)).symm, fun _ => rfl⟩
  · exact ⟨.setsrc (c.extractLsb' 0 16), rfl, encodeS_of_masked h rfl rfl, fun _ => rfl⟩
  · exact ⟨.setdst (c.extractLsb' 0 16), rfl, encodeS_of_masked h rfl rfl, fun _ => rfl⟩
  · exact ⟨.setstr (c.extractLsb' 0 16), rfl, encodeS_of_masked h rfl rfl, fun _ => rfl⟩
  · exact ⟨.fdct (c.extractLsb' 3 3) (familyOfBit (c.getLsbD 6)) (c.getLsbD 7), rfl,
      encodeT_of_masked h rfl rfl rfl rfl, hok⟩
  · exact ⟨.idct (c.extractLsb' 3 3) (familyOfBit (c.getLsbD 6)) (c.getLsbD 7), rfl,
      encodeT_of_masked h rfl rfl rfl rfl, hok⟩
  · exact ⟨.fdst (c.extractLsb' 3 3) (familyOfBit (c.getLsbD 6)) (c.getLsbD 7), rfl,
      encodeT_of_masked h rfl rfl rfl rfl, hok⟩
  · exact ⟨.idst (c.extractLsb' 3 3) (familyOfBit (c.getLsbD 6)) (c.getLsbD 7), rfl,
      encodeT_of_masked h rfl rfl rfl rfl, hok⟩
  · exact ⟨.fidt (c.extractLsb' 3 3), rfl, encodeT_identity_of_masked h rfl rfl rfl rfl rfl, hok⟩
  · exact ⟨.iidt (c.extractLsb' 3 3), rfl, encodeT_identity_of_masked h rfl rfl rfl rfl rfl, hok⟩
  · exact ⟨.permf (c.extractLsb' 3 3) (tableOfBit (c.getLsbD 1)), rfl, encodeP_of_masked h rfl rfl rfl rfl, hok⟩
  · exact ⟨.permi (c.extractLsb' 3 3) (tableOfBit (c.getLsbD 1)), rfl, encodeP_of_masked h rfl rfl rfl rfl, hok⟩

/-- Each command's word matches a row of its name (R98). -/
theorem exists_row_of_instr (i : Instr) : Laws.TableRow.Statement i := by
  cases i with
  | nop => exact Laws.TableRow.nop
  | setsrc imm => exact Laws.TableRow.setsrc imm
  | setdst imm => exact Laws.TableRow.setdst imm
  | setstr imm => exact Laws.TableRow.setstr imm
  | fdct sz fam raw => exact Laws.TableRow.fdct sz fam raw
  | idct sz fam raw => exact Laws.TableRow.idct sz fam raw
  | fdst sz fam raw => exact Laws.TableRow.fdst sz fam raw
  | idst sz fam raw => exact Laws.TableRow.idst sz fam raw
  | fidt sz => exact Laws.TableRow.fidt sz
  | iidt sz => exact Laws.TableRow.iidt sz
  | permf sz tbl => exact Laws.TableRow.permf sz tbl
  | permi sz tbl => exact Laws.TableRow.permi sz tbl

theorem mnemonic_of_sized :
    ∀ r ∈ opcodeMap, r.sized = true → r.mnemonic ∉ ["NOP", "SETSRC", "SETDST", "SETSTR"] := by
  decide

/-- The size code of a well-formed command of a row that has one (R96). -/
theorem size_le_of_wellFormed {i : Instr} {r : OpcodeRow} (h : i.WellFormed) (hr : r ∈ opcodeMap)
    (hname : r.mnemonic = i.mnemonic) (hs : r.sized = true) : ((encode i).extractLsb' 3 3).toNat ≤ 4 := by
  have hno := hname ▸ mnemonic_of_sized r hr hs
  cases i with
  | nop | setsrc imm | setdst imm | setstr imm => exact absurd (by simp [Instr.mnemonic]) hno
  | fdct sz fam raw | idct sz fam raw | fdst sz fam raw | idst sz fam raw | fidt sz | iidt sz =>
    rw [encode, size_encodeT]
    exact not_lt.1 ((sizeOk_iff sz).1 h)
  | permf sz tbl | permi sz tbl =>
    rw [encode, size_encodeP]
    exact not_lt.1 ((sizeOk_iff sz).1 h)

end Rows

/-! ## The obligations -/

/-- Settles O1: the decoder finds each field of the encoded word where the encoder put it. -/
theorem encodedCommandDecodesBack : Obligations.EncodedCommandDecodesBack := fun _ => decode_encode

/-- Settles O2: the decoder's tests fix the bits its fields leave out, so the fields make up the word. -/
theorem decodedCommandHasOneWord : Obligations.DecodedCommandHasOneWord := fun _ _ => wellFormed_and_encode_of_decode

/-- Settles O3: a selected word is the word of a command of the row, and by O1 and O2 that is what it decodes to; two rows
that match one word agree under both masks. -/
theorem opcodeMapSelectsTheCommand : Obligations.OpcodeMapSelectsTheCommand := by
  refine ⟨fun c name => ⟨?_, ?_⟩, fun c r₁ r₂ hr₁ hr₂ h₁ h₂ =>
    eq_of_patterns_agree r₁ hr₁ r₂ hr₂ (masked_matches_agree h₁ h₂)⟩
  · rintro ⟨r, hr, rfl, h, hsz⟩
    obtain ⟨i, hname, rfl, hwf⟩ := exists_encode_of_matches hr h
    exact ⟨i, decode_encode (hwf hsz), hname⟩
  · rintro ⟨i, h, rfl⟩
    obtain ⟨hwf, rfl⟩ := wellFormed_and_encode_of_decode h
    obtain ⟨r, hr, hname, hmask⟩ := exists_row_of_instr i
    exact ⟨r, hr, hname, hmask, size_le_of_wellFormed hwf hr hname⟩

/-- Settles O4: the ILLEGAL words of each OP, and by O2 the only word of NOP. -/
theorem illegalWordsAreTheReservedOnes : Obligations.IllegalWordsAreTheReservedOnes := by
  refine ⟨fun c => ?_, fun c h => (wellFormed_and_encode_of_decode h).2.symm⟩
  change _ ↔ (decode c).IsIllegal
  obtain hop | hop | hop | hop | hop := op_cases (c.extractLsb' 28 4)
  · simp [decode_op_zero hop, hop]
  · obtain hop | hop | hop := hop <;> simp [decode_op_setter hop, hop]
  · simp [decode_op_transform hop, decodeT_isIllegal_iff, hop]
  · simp [decode_op_permute hop, decodeP_isIllegal_iff, hop]
  · exact iff_of_true (.inl hop) ⟨_, decode_op_reserved hop⟩

/-- Settles O5: each word by evaluation. -/
theorem writtenWordsDecode : Obligations.WrittenWordsDecode := by
  unfold Obligations.WrittenWordsDecode
  decide

end Sys2Proof
end

section
/-! PROOFS. The rotation primitives (40_primitives.md): the bounds and the oddness of mulr, the precise shears undone in
reverse order, the flattened matrix and the butterfly of equal inputs; the five statements settled here (O36 to O40). -/

namespace Sys2Proof.Machine

/-! ## Multiply-round-shift -/

/-- The product in mulr is at most 2^31·(2^24 − 1) in magnitude (R124). -/
theorem abs_toInt_mul_le (v : Word) {m : Nat} (hm : m < 16777216) : |v.toInt * (m : Int)| ≤ 2147483648 * 16777215 := by
  have hv : |v.toInt| ≤ 2147483648 := abs_le.2 ⟨v.le_toInt, v.toInt_lt.le⟩
  have hm' : |(m : Int)| ≤ 16777215 := by rw [Nat.abs_cast]; omega
  rw [abs_mul]
  exact mul_le_mul hv hm' (abs_nonneg _) (by norm_num)

/-- −2^31 is the one word whose negation has another integer. -/
theorem toInt_neg_of_ne {v : Word} (hv : v ≠ 0x80000000#32) : (-v).toInt = -v.toInt := by
  obtain ⟨hlo, hhi⟩ := (isWord_neg_toInt_iff v).2 hv
  rw [← negate_val]
  exact store_val_toInt_of_range hlo hhi

/-- mulr is odd except at a tie, which both signs round upward (R124). -/
theorem mulr_neg_eq_neg_iff {v : Word} (hv : v ≠ 0x80000000#32) (m : Nat) :
    mulr (-v) m = -mulr v m ↔ (v.toInt * (m : Int)) % 16777216 ≠ 8388608 := by
  rw [mulr_eq_div, mulr_eq_div, toInt_neg_of_ne hv, Int.neg_mul]
  omega

/-! ## The precise rotation -/

/-- The inverse takes back the negation and then the three shears of the rotation, the last one first (R127, R130). -/
theorem ireflP_reflP (k : Nat) (a b : Word) :
    (ireflP k (reflP k a b).p (reflP k a b).q).p = a ∧ (ireflP k (reflP k a b).p (reflP k a b).q).q = b := by
  simp only [ireflP, reflP, store_toInt, negate_negate_val, store_add_sub, store_sub_add, and_self]

theorem reflP_ireflP (k : Nat) (p q : Word) :
    (reflP k (ireflP k p q).p (ireflP k p q).q).p = p ∧ (reflP k (ireflP k p q).p (ireflP k p q).q).q = q := by
  simp only [ireflP, reflP, store_toInt, negate_negate_val, store_add_sub, store_sub_add, and_self]

/-! ## The flattened rotation -/

/-- The matrix (A_k, B_k; C_k, −A_k) squares to 2^144, whatever T_k and S_k are: it has trace 0 and determinant −2^144, as a
reflection scaled by 2^72 (R135). -/
theorem flatA_sq_add_flatB_mul_flatC (k : Nat) : flatA k * flatA k + flatB k * flatC k = 2 ^ 144 := by
  rw [flatA, flatB, flatC]
  ring

/-- The magnitudes in each row of the flattened matrix add up to at most 3/2 of 2^72, as the cosine and the sine of an angle
add up to at most √2 (R133). -/
theorem flat_entries_bounds : ∀ k < 65, 0 ≤ flatA k ∧ 0 ≤ flatB k ∧ 0 ≤ flatC k ∧
    flatA k + flatB k ≤ 3 * 2 ^ 71 ∧ flatC k + flatA k ≤ 3 * 2 ^ 71 := by
  decide

/-- The bound on a row keeps its output a word when the inputs are below 2^30 in magnitude (R133). -/
theorem isWord_flat_output {x y a b : Int} (hx : 0 ≤ x) (hy : 0 ≤ y) (hxy : x + y ≤ 3 * 2 ^ 71)
    (ha : |a| < 1073741824) (hb : |b| < 1073741824) :
    IsWord ((x * a + y * b + 0x800000000000000000) >>> (72 : Nat)) := by
  obtain ⟨ha1, ha2⟩ := abs_lt.1 ha
  obtain ⟨hb1, hb2⟩ := abs_lt.1 hb
  have hxa1 := mul_le_mul_of_nonneg_left ha1.le hx
  have hxa2 := mul_le_mul_of_nonneg_left ha2.le hx
  have hyb1 := mul_le_mul_of_nonneg_left hb1.le hy
  have hyb2 := mul_le_mul_of_nonneg_left hb2.le hy
  rw [Int.shiftRight_eq_div_pow, IsWord]
  omega

theorem reflF_ovf_of_lt {k : Nat} (hk : k ≤ 64) {a b : Word} (ha : |a.toInt| < 1073741824) (hb : |b.toInt| < 1073741824) :
    (reflF k a b).ovf = false := by
  obtain ⟨hA, hB, hC, hAB, hCA⟩ := flat_entries_bounds k (by omega)
  have hq := isWord_flat_output hC hA hCA ha (b := -b.toInt) (by rwa [abs_neg])
  rw [mul_neg, ← sub_eq_add_neg] at hq
  simp only [reflF, Bool.or_eq_false_iff, store_ovf_eq_false_iff_isWord]
  exact ⟨isWord_flat_output hA hB hAB ha hb, hq⟩

/-! ## The butterfly of equal inputs -/

theorem romT_butterfly : romT 64 = 6949350 := rfl

theorem romS_butterfly : romS 64 = 11863283 := rfl

theorem store_zero : store 0 = ⟨0#32, false⟩ := store_toInt 0#32

/-- The first shear of the butterfly keeps c·(1 + T_64/2^24) in the word range (R139). -/
theorem isWord_butterfly_shear {c : Word} (hc : |c.toInt| ≤ 32768) : IsWord (c.toInt + mulr c (romT 64)) := by
  obtain ⟨hlo, hhi⟩ := abs_le.1 hc
  rw [romT_butterfly, mulr_eq_div, IsWord]
  omega

/-- The second shear takes off c exactly: (2^24 + T_64)·S_64 is near 2^48, and S_64/2^24 = 0.707 scales the first rounding's
error of at most 1/2 to below 0.36 (R139). -/
theorem mulr_butterfly_shear {c a₁ : Word} (hc : |c.toInt| ≤ 32768) (ha : a₁.toInt = c.toInt + mulr c (romT 64)) :
    mulr a₁ (romS 64) = c.toInt := by
  obtain ⟨hlo, hhi⟩ := abs_le.1 hc
  rw [romT_butterfly, mulr_eq_div] at ha
  rw [romS_butterfly, mulr_eq_div]
  omega

theorem reflP_butterfly_equal {c : Word} (hc : |c.toInt| ≤ 32768) :
    (reflP 64 c c).q = 0#32 ∧ (reflP 64 c c).ovf = false := by
  have hword := isWord_butterfly_shear hc
  have hstore := (store_ovf_eq_false_iff_isWord _).2 hword
  have hshear := mulr_butterfly_shear hc (store_val_toInt_of_range hword.1 hword.2)
  simp [reflP, hshear, hstore, store_zero, negate_eq]

/-- Here A_64 and C_64 differ by less than 2^48, far below the half unit 2^71 for every |c| ≤ 2^15 (R139). -/
theorem flat_butterfly_output {x : Int} (hx : |x| ≤ 32768) :
    (flatC 64 * x - flatA 64 * x + 0x800000000000000000) >>> (72 : Nat) = 0 := by
  obtain ⟨hlo, hhi⟩ := abs_le.1 hx
  rw [flatA, flatC, romT_butterfly, romS_butterfly, Int.shiftRight_eq_div_pow]
  omega

theorem reflF_butterfly_equal {c : Word} (hc : |c.toInt| ≤ 32768) :
    (reflF 64 c c).q = 0#32 ∧ (reflF 64 c c).ovf = false := by
  refine ⟨?_, reflF_ovf_of_lt le_rfl (by omega) (by omega)⟩
  simp only [reflF, flat_butterfly_output hc, store_zero]

/-! ## The obligations -/

/-- Settles O36: the quotient, its distance from v·m / 2^24, the bounds that follow from |v·m| ≤ 2^31·(2^24 − 1), and the
ties. -/
theorem multiplyRoundsToNearest : Obligations.MultiplyRoundsToNearest := by
  refine ⟨fun v m hm => ?_, by decide, by decide⟩
  obtain ⟨hlo, hhi⟩ := abs_le.1 (abs_toInt_mul_le v hm)
  have hbounds := mulr_bounds v m
  refine ⟨mulr_eq_div v m, ⟨?_, ?_⟩, abs_lt.2 ⟨?_, ?_⟩, abs_lt.2 ⟨?_, ?_⟩, fun hv => mulr_neg_eq_neg_iff hv m⟩ <;> omega

/-- Settles O37: either rotation takes back each shear of the other, wrap or not. -/
theorem preciseRotationIsInvertible : Obligations.PreciseRotationIsInvertible :=
  fun k a b => ⟨ireflP_reflP k a b, reflP_ireflP k a b⟩

/-- Settles O39: each output's exact value is a word. -/
theorem flattenedRotationDoesNotWrap : Obligations.FlattenedRotationDoesNotWrap :=
  fun _ _ _ _ hk ha hb => reflF_ovf_of_lt hk ha hb

/-- Settles O40: by family. -/
theorem butterflyOfEqualInputs : Obligations.ButterflyOfEqualInputs := by
  intro fam c hc
  cases fam with
  | precise => exact reflP_butterfly_equal hc
  | flattened => exact reflF_butterfly_equal hc

/-- Settles O38: the identity holds for any T_k and S_k, and the ROM's entries give R134's rows by evaluation. -/
theorem flattenedMatrixIsAnInvolution : Obligations.FlattenedMatrixIsAnInvolution :=
  ⟨flatA_sq_add_flatB_mul_flatC, by decide⟩

end Sys2Proof.Machine
end

section
/-! PROOFS. The composers (41_composers.md): the steps of the precise composers and their undoing, on vectors, through the
permutation and through memory; the zero vector and constant vectors; and the energy of a vector, which every layer of
rotations keeps up to a small factor; the five statements settled here (O42 to O46). -/

namespace Sys2Proof.Machine

/-! ## Round trip: undoing the steps of the precise composers (R173) -/

/-- A map of the vectors of N words that has a left inverse has it as a right inverse: there are finitely many of them. -/
theorem rightInverse_of_leftInverse {N : Nat} {f g : List Word → List Word} (hf : ∀ x, x.length = N → (f x).length = N)
    (h : ∀ x, x.length = N → g (f x) = x) {y : List Word} (hy : y.length = N) : f (g y) = y := by
  have hinj : Function.Injective fun x : List.Vector Word N => (⟨f x.1, hf x.1 x.2⟩ : List.Vector Word N) := by
    intro x x' hxx'
    have hfx : f x.1 = f x'.1 := congrArg Subtype.val hxx'
    exact Subtype.ext (by rw [← h x.1 x.2, ← h x'.1 x'.2, hfx])
  obtain ⟨x, hx⟩ := Finite.injective_iff_surjective.1 hinj ⟨y, hy⟩
  have hfx : f x.1 = y := congrArg Subtype.val hx
  rw [← hfx, h _ x.2]

/-- Elements of the two halves, the second counted from the end, make the vector. -/
theorem vec_ext_pairs {x y : List Word} {h : Nat} (hx : x.length = 2 * h) (hy : y.length = 2 * h)
    (hlo : ∀ i < h, elt x i = elt y i) (hhi : ∀ i < h, elt x (2 * h - 1 - i) = elt y (2 * h - 1 - i)) : x = y := by
  refine vec_ext (hx.trans hy.symm) fun i hi => ?_
  by_cases hih : i < h
  · exact hlo i hih
  · have heq := hhi (2 * h - 1 - i) (by omega)
    rwa [show 2 * h - 1 - (2 * h - 1 - i) = i by omega] at heq

/-- A vector is given by the words at slot 0 and at the slots of the other frequencies. -/
theorem vec_ext_slots {x y : List Word} {n : Nat} (hx : x.length = 2 ^ n) (hy : y.length = 2 ^ n)
    (h0 : elt x 0 = elt y 0) (h : ∀ j < 2 ^ n, 1 ≤ j → elt x (sigma n j) = elt y (sigma n j)) : x = y := by
  refine vec_ext (hx.trans hy.symm) fun i hi => ?_
  have hi' : i < 2 ^ n := hx ▸ hi
  by_cases hi0 : i = 0
  · rw [hi0, h0]
  · rw [← sigma_nth_permC2 hi']
    exact h _ (nth_permC2_lt hi') (one_le_nth_permC2 hi0 hi')

theorem ireflect_reflect (k : Nat) (a b : Word) :
    (ireflect .precise k (reflect .precise k a b).p (reflect .precise k a b).q).p = a ∧
    (ireflect .precise k (reflect .precise k a b).p (reflect .precise k a b).q).q = b := ireflP_reflP k a b

theorem signAdjust_signAdjust {n : Nat} {f : List Word} (hf : f.length = 2 ^ n) :
    vals (signAdjust n (vals (signAdjust n f))) = f := by
  refine vec_ext (by simp [hf]) fun i hi => ?_
  have hi' : i < 2 ^ n := by simpa using hi
  simp only [signAdjust, elt_vals_map_range hi', negateIf_negateIf_val]

theorem alternate_alternate {n : Nat} {v : List Word} (hv : v.length = 2 ^ n) :
    vals (alternate n (vals (alternate n v))) = v := by
  refine vec_ext (by simp [hv]) fun i hi => ?_
  have hi' : i < 2 ^ n := by simpa using hi
  simp only [alternate, elt_vals_map_range hi', negateIf_negateIf_val]

/-- Undoing step (1) of C2 (R153, R156). -/
theorem ic2Butterflies_c2Butterflies {h : Nat} {x : List Word} (hx : x.length = 2 * h) {bf : List Rotated}
    (hbf : c2Butterflies .precise h x = bf) :
    ps (ic2Butterflies .precise h (ps bf) (qs bf)) ++ (qs (ic2Butterflies .precise h (ps bf) (qs bf))).reverse = x := by
  subst hbf
  refine vec_ext_pairs (by simp; omega) hx (fun i hi => ?_) fun i hi => ?_
  · rw [elt_append_left (by simpa), ic2Butterflies, elt_ps_map_range hi, c2Butterflies, elt_ps_map_range hi,
      elt_qs_map_range hi, (ireflect_reflect ..).1]
  · rw [elt_append_reverse (by simp) (by simp) hi, ic2Butterflies, elt_qs_map_range hi, c2Butterflies, elt_ps_map_range hi,
      elt_qs_map_range hi, (ireflect_reflect ..).2]

/-- Undoing step (1) of S4 (R154, R157). -/
theorem is4PreRotations_s4PreRotations {n : Nat} {x : List Word} (hx : x.length = 2 ^ (n + 1)) {pre : List Rotated}
    (hpre : s4PreRotations .precise n x = pre) :
    qs (is4PreRotations .precise n (ps pre) (qs pre)) ++ (ps (is4PreRotations .precise n (ps pre) (qs pre))).reverse =
      x := by
  subst hpre
  rw [Nat.pow_succ'] at hx
  refine vec_ext_pairs (by simp; omega) hx (fun i hi => ?_) fun i hi => ?_
  · rw [elt_append_left (by simpa), is4PreRotations, elt_qs_map_range hi, s4PreRotations, elt_ps_map_range hi,
      elt_qs_map_range hi, (ireflect_reflect ..).2]
  · rw [elt_append_reverse (by simp) (by simp) hi, is4PreRotations, elt_ps_map_range hi, s4PreRotations,
      elt_ps_map_range hi, elt_qs_map_range hi, (ireflect_reflect ..).1, Nat.pow_succ']

/-- S4's output vector from the vectors of its two half-size DCTs: steps (3) and (4) (R154). -/
def s4Post (fam : Family) (n : Nat) (u v : List Word) : List Word :=
  vals (s4FirstHalf n u (s4PostButterflies fam n u v)) ++ vals (s4SecondHalf n v (s4PostButterflies fam n u v))

/-- The inverse's butterflies that undo step (3), from its input vector (R157). -/
def is4Post (fam : Family) (n : Nat) (o : List Word) : List Rotated :=
  is4PostButterflies fam n (vals (is4NegFirst n o)) o

/-- The undone post butterflies of S4's output are U's and V's words (R154, R157). -/
theorem rotAt_is4Post_s4Post {n j : Nat} (u v : List Word) (h1 : 1 ≤ j) (hj : j < 2 ^ n) :
    (rotAt (is4Post .precise n (s4Post .precise n u v)) (j - 1)).p = elt u (sigma n j) ∧
    (rotAt (is4Post .precise n (s4Post .precise n u v)) (j - 1)).q = elt v (sigma n (2 ^ n - j)) := by
  rw [is4Post, rotAt_is4PostButterflies _ _ h1 hj, s4Post, elt_append_left (by simpa using sigma_lt hj),
    elt_append_length_add (by simp), elt_s4FirstHalf_sigma _ _ h1 hj, elt_s4SecondHalf_sigma _ _ h1 hj, negate_negate_val,
    rotAt_s4PostButterflies _ _ _ h1 hj]
  exact ireflect_reflect ..

theorem is4FirstHalf_s4Post {n : Nat} {u : List Word} (hu : u.length = 2 ^ n) (v : List Word) :
    is4FirstHalf n (s4Post .precise n u v) (is4Post .precise n (s4Post .precise n u v)) = u := by
  refine vec_ext_slots (by simp) hu ?_ fun j hj h1 => ?_
  · rw [elt_is4FirstHalf_zero, s4Post, elt_append_left (by simp), elt_s4FirstHalf_zero]
  · rw [elt_is4FirstHalf_sigma _ _ h1 hj, (rotAt_is4Post_s4Post u v h1 hj).1]

theorem is4SecondHalf_s4Post {n : Nat} (u : List Word) {v : List Word} (hv : v.length = 2 ^ n) :
    vals (is4SecondHalf n (s4Post .precise n u v) (is4Post .precise n (s4Post .precise n u v))) = v := by
  rw [is4SecondHalf_eq]
  refine vec_ext_slots (by simp) hv ?_ fun j hj h1 => ?_
  · rw [elt_s4SecondHalf_zero, elt_drop, s4Post, elt_append_length_add (by simp), elt_s4SecondHalf_zero, negate_negate_val]
  · have h1' : 1 ≤ 2 ^ n - j := by omega
    have hj' : 2 ^ n - j < 2 ^ n := by omega
    have hslot := elt_s4SecondHalf_sigma ((s4Post .precise n u v).drop (2 ^ n)) (is4Post .precise n (s4Post .precise n u v))
      h1' hj'
    rw [(rotAt_is4Post_s4Post u v h1' hj').2, Nat.sub_sub_self hj.le] at hslot
    exact hslot

/-- Each precise inverse composer takes back the steps of its forward one, the last one first (R173). -/
theorem ic2_c2_is4_s4 (n : Nat) : ∀ x : List Word, x.length = 2 ^ n →
    (ic2 .precise n (c2 .precise n x).vec).vec = x ∧ (is4 .precise n (s4 .precise n x).vec).vec = x := by
  induction n with
  | zero =>
    intro x hx
    obtain ⟨hc, hs, hic, his⟩ := composers_size_one .precise hx
    rw [hc, hs, hic, his]
    exact ⟨rfl, rfl⟩
  | succ n ih =>
    intro x hx
    constructor
    · simp only [c2, ic2]
      rw [List.take_left' (by simp), List.drop_left' (by simp), signAdjust_signAdjust (by simp), (ih _ (by simp)).1,
        (ih _ (by simp)).2, List.reverse_reverse]
      exact ic2Butterflies_c2Butterflies (by rw [hx, Nat.pow_succ']) rfl
    · simp only [s4, is4]
      rw [← s4Post, ← is4Post, is4FirstHalf_s4Post (by simp), is4SecondHalf_s4Post _ (by simp), (ih _ (by simp)).1,
        (ih _ (by simp)).1, alternate_alternate (by simp)]
      exact is4PreRotations_s4PreRotations hx rfl

/-- The reverse compositions follow, since there are finitely many vectors of one size (R173). -/
theorem c2_ic2_s4_is4 (n : Nat) {y : List Word} (hy : y.length = 2 ^ n) :
    (c2 .precise n (ic2 .precise n y).vec).vec = y ∧ (s4 .precise n (is4 .precise n y).vec).vec = y :=
  ⟨rightInverse_of_leftInverse (f := fun x => (c2 .precise n x).vec) (g := fun x => (ic2 .precise n x).vec) (by simp)
      (fun x hx => (ic2_c2_is4_s4 n x hx).1) hy,
    rightInverse_of_leftInverse (f := fun x => (s4 .precise n x).vec) (g := fun x => (is4 .precise n x).vec) (by simp)
      (fun x hx => (ic2_c2_is4_s4 n x hx).2) hy⟩

/-! ### Through the permutation (R195, R196) -/

/-- A table that lists 0 .. N − 1 in some order puts every word back where it was (R195, R196). -/
theorem permInv_permFwd {t : List Nat} (ht : t.Perm (List.range t.length)) {v : List Word} (hv : v.length = t.length) :
    permInv t (permFwd t v) = v := by
  have hnodup : t.Nodup := ht.nodup_iff.2 List.nodup_range
  refine vec_ext (by simp [hv]) fun s hs => ?_
  have hs' : s < t.length := by simpa using hs
  have hlt : t[s] < t.length := List.mem_range.1 (ht.mem_iff.1 (List.getElem_mem hs'))
  have hslot : slotOf t t[s] = s := hnodup.idxOf_getElem s hs'
  have hinv : elt (permInv t (permFwd t v)) s = elt (permFwd t v) t[s] := by simp [elt, permInv, hs']
  rw [hinv, permFwd, elt_map_range hlt, hslot]

/-- With one RAW bit a command's vector function is undone as its composer is (R199). -/
theorem inverseVec_forwardVec {f g : List Word → Composed} {t : List Nat} (ht : t.Perm (List.range t.length))
    (hf : ∀ x, (f x).vec.length = t.length) {x : List Word} (h : (g (f x).vec).vec = x) (raw : Bool) :
    (inverseVec g t raw (forwardVec f t raw x).vec).vec = x := by
  cases raw with
  | true => exact h
  | false => simpa [inverseVec, forwardVec, permInv_permFwd ht (hf x)] using h

theorem length_forwardVec {f : List Word → Composed} {t : List Nat} {N : Nat} (ht : t.length = N)
    (hf : ∀ x, (f x).vec.length = N) (raw : Bool) (x : List Word) : (forwardVec f t raw x).vec.length = N := by
  cases raw with
  | true => exact hf x
  | false => rw [forwardVec, if_neg Bool.false_ne_true, length_permFwd, ht]

theorem idctVec_fdctVec (sz : BitVec 3) (raw : Bool) {x : List Word} (hx : x.length = size sz) :
    (idctVec sz .precise raw (fdctVec sz .precise raw x).vec).vec = x :=
  inverseVec_forwardVec (by simpa using permC2_perm_range (level sz)) (by simp) (ic2_c2_is4_s4 _ x hx).1 raw

theorem idstVec_fdstVec (sz : BitVec 3) (raw : Bool) {x : List Word} (hx : x.length = size sz) :
    (idstVec sz .precise raw (fdstVec sz .precise raw x).vec).vec = x :=
  inverseVec_forwardVec (by simpa using permS4_perm_range (level sz)) (by simp) (ic2_c2_is4_s4 _ x hx).2 raw

/-! ### Through memory (R237 to R240) -/

/-- No later element of an inverse command's scatter has the address of element i, if the stride is not 0 or i is the last
(R245). -/
theorem State.scatterAddr_inv_ne_of_lt {s : State} {n i j : Nat} (h : s.stride ≠ 0#16 ∨ i = n - 1) (hj : j < n)
    (hij : i < j) : s.scatterAddr .inv j ≠ s.scatterAddr .inv i := by
  have hstride : 0 < s.stride.toNat := by
    rcases h with h | h
    · exact Nat.pos_of_ne_zero fun h0 => h (BitVec.eq_of_toNat_eq h0)
    · omega
  have hmul := Nat.mul_lt_mul_of_pos_right hij hstride
  simp only [State.scatterAddr]
  omega

/-- A forward transfer leaves its output for a contiguous read from its destination (R236). -/
theorem State.gather_scatter_fwd {s t : State} {n : Nat} {y : List Word} (hy : y.length = n) (hsrc : t.src = s.dst)
    (hdmem : t.dmem = (s.scatter .fwd n y).dmem) (hepoch : t.epoch = s.epoch) : t.gather .inv n = y := by
  refine vec_ext (by simp [hy]) fun i hi => ?_
  have hi' : i < n := by simpa using hi
  have haddr : t.gatherAddr .inv i = s.scatterAddr .fwd i := by simp only [State.gatherAddr, State.scatterAddr, hsrc]
  have hne : ∀ j < n, i < j → s.scatterAddr .fwd j ≠ s.scatterAddr .fwd i := fun j _ hij => by
    simp only [State.scatterAddr]; omega
  rw [State.elt_gather _ _ _ hi', haddr, ← s.readWord_scatter .fwd n y hy hi' hne]
  exact State.readWord_congr hdmem hepoch _

/-- A forward transfer of `f` and an inverse one of `g` that reads its output restore the words if `g` undoes `f`. -/
theorem transfer_roundTrip {sz : BitVec 3} {f g : List Word → Composed} (hsz : sizeOk sz = true)
    (hf : ∀ x, (f x).vec.length = size sz) (hgf : ∀ x, x.length = size sz → (g (f x).vec).vec = x) {s : State}
    {dst stride : Half} (hrange : ∀ i < size sz, s.src.toNat + i * s.stride.toNat < s.nw ∧ s.dst.toNat + i < s.nw ∧
      dst.toNat + i * stride.toNat < s.nw) {i : Nat} (hi : i < size sz) (hlast : stride ≠ 0#16 ∨ i = size sz - 1) :
    (transfer .inv sz g { transfer .fwd sz f s with src := s.dst, dst := dst, stride := stride }).readWord
      (dst.toNat + i * stride.toNat) = s.readWord (s.src.toNat + i * s.stride.toNat) := by
  have hs : s.inRange .fwd (size sz) = true := (s.inRange_iff .fwd _).2 fun j hj => ⟨(hrange j hj).1, (hrange j hj).2.1⟩
  rw [transfer_ok f hsz hs]
  set x := s.gather .fwd (size sz)
  set t : State := { (s.scatter .fwd (size sz) (f x).vec).completeOk (f x).ovf with
    src := s.dst, dst := dst, stride := stride }
  have ht : t.inRange .inv (size sz) = true := (t.inRange_iff .inv _).2 fun j hj => (hrange j hj).2
  have hx : x.length = size sz := s.length_gather _ _
  rw [transfer_ok g hsz ht, State.gather_scatter_fwd (s := s) (t := t) (hf x) rfl rfl rfl, hgf x hx]
  calc _ = (t.scatter .inv (size sz) x).readWord (t.scatterAddr .inv i) := State.readWord_congr rfl rfl _
    _ = elt x i := t.readWord_scatter .inv _ _ hx hi fun _ => State.scatterAddr_inv_ne_of_lt hlast
    _ = s.readWord (s.gatherAddr .fwd i) := s.elt_gather .fwd _ hi

/-! ## The zero vector (R177) -/

@[simp] theorem elt_replicate_zero (N i : Nat) : elt (List.replicate N 0#32) i = 0#32 := by
  simp [elt, List.getElem?_replicate]; split <;> rfl

@[simp] theorem negate_zero : negate 0#32 = ⟨0#32, false⟩ := rfl

@[simp] theorem negateIf_zero (b : Bool) : negateIf b 0#32 = ⟨0#32, false⟩ := by cases b <;> rfl

theorem reflF_zero (k : Nat) : reflF k 0#32 0#32 = ⟨0#32, 0#32, false⟩ := by
  have hround : (0x800000000000000000 : Int) >>> (72 : Nat) = 0 := by decide
  simp only [reflF, BitVec.toInt_zero, mul_zero, sub_zero, zero_add, hround, store_zero, Bool.or_false]

/-- Every rotation keeps the zero pair (R138). -/
@[simp] theorem reflect_zero (fam : Family) (k : Nat) : reflect fam k 0#32 0#32 = ⟨0#32, 0#32, false⟩ := by
  cases fam with
  | precise => simp [reflect, reflP, store_zero]
  | flattened => exact reflF_zero k

@[simp] theorem ireflect_zero (fam : Family) (k : Nat) : ireflect fam k 0#32 0#32 = ⟨0#32, 0#32, false⟩ := by
  cases fam with
  | precise => simp [ireflect, ireflP, store_zero]
  | flattened => exact reflF_zero k

@[simp] theorem ps_replicate (N : Nat) (r : Rotated) : ps (List.replicate N r) = List.replicate N r.p := by simp [ps]

@[simp] theorem qs_replicate (N : Nat) (r : Rotated) : qs (List.replicate N r) = List.replicate N r.q := by simp [qs]

@[simp] theorem vals_replicate (N : Nat) (r : Stored) : vals (List.replicate N r) = List.replicate N r.val := by
  simp [vals]

@[simp] theorem anyRot_replicate_zero (N : Nat) : anyRot (List.replicate N ⟨0#32, 0#32, false⟩) = false := by
  simp [anyRot]

@[simp] theorem anySt_replicate_zero (N : Nat) : anySt (List.replicate N ⟨0#32, false⟩) = false := by simp [anySt]

@[simp] theorem rotAt_replicate_zero (N j : Nat) :
    rotAt (List.replicate N ⟨0#32, 0#32, false⟩) j = ⟨0#32, 0#32, false⟩ := by
  simp [rotAt, List.getElem?_replicate]; split <;> rfl

/-- Every step of a forward composer makes zeros of zeros (R177). -/
theorem c2_s4_zero (fam : Family) (n : Nat) :
    c2 fam n (List.replicate (2 ^ n) 0#32) = ⟨List.replicate (2 ^ n) 0#32, false⟩ ∧
    s4 fam n (List.replicate (2 ^ n) 0#32) = ⟨List.replicate (2 ^ n) 0#32, false⟩ := by
  induction n with
  | zero => exact ⟨rfl, rfl⟩
  | succ n ih =>
    obtain ⟨hc, hs⟩ := ih
    constructor
    · simp [c2, c2Butterflies, signAdjust, hc, hs, Nat.pow_succ, mul_two]
    · simp [s4, s4PreRotations, alternate, s4PostButterflies, s4FirstHalf, s4SecondHalf, hc, Nat.pow_succ, mul_two]

/-- Every step of an inverse composer makes zeros of zeros (R177). -/
theorem ic2_is4_zero (fam : Family) (n : Nat) :
    ic2 fam n (List.replicate (2 ^ n) 0#32) = ⟨List.replicate (2 ^ n) 0#32, false⟩ ∧
    is4 fam n (List.replicate (2 ^ n) 0#32) = ⟨List.replicate (2 ^ n) 0#32, false⟩ := by
  induction n with
  | zero => exact ⟨rfl, rfl⟩
  | succ n ih =>
    obtain ⟨hc, hs⟩ := ih
    constructor
    · simp [ic2, ic2Butterflies, signAdjust, hc, hs, Nat.pow_succ, mul_two]
    · simp [is4, is4NegFirst, is4PostButterflies, is4FirstHalf, is4SecondHalf, is4PreRotations, alternate, hc,
        Nat.pow_succ, mul_two]
/-! ## Constant vectors (R178) -/

/-- What the butterfly of equal words gives: no difference, no wrap, and a sum at most twice the word in magnitude. -/
structure Isolates (c : Word) (r : Rotated) : Prop where
  q : r.q = 0#32
  ovf : r.ovf = false
  p : |r.p.toInt| ≤ 2 * |c.toInt|

/-- The second shear takes off c exactly up to |c| = 2^20: the first rounding's error, scaled by S_64/2^24 = 0.707, and the
relative error of (2^24 + T_64)·S_64 against 2^48 stay below half a unit together (R139). -/
theorem reflP_isolates {c : Word} (hc : |c.toInt| ≤ 1048576) : Isolates c (reflP 64 c c) := by
  have hlo := neg_abs_le c.toInt
  have hhi := le_abs_self c.toInt
  have hp : -(2 * |c.toInt|) ≤ c.toInt + mulr c (romT 64) ∧ c.toInt + mulr c (romT 64) ≤ 2 * |c.toInt| := by
    rw [romT_butterfly, mulr_eq_div]
    omega
  have hword : IsWord (c.toInt + mulr c (romT 64)) := by rw [IsWord]; omega
  have hval := store_val_toInt_of_range hword.1 hword.2
  have hovf := (store_ovf_eq_false_iff_isWord _).2 hword
  have hshear : mulr (store (c.toInt + mulr c (romT 64))).val (romS 64) = c.toInt := by
    rw [romS_butterfly, mulr_eq_div, hval, romT_butterfly, mulr_eq_div]
    omega
  constructor
  · simp [reflP, hshear, store_zero]
  · simp [reflP, hshear, hovf, store_zero]
  · simpa [reflP, hshear, store_zero, hval, abs_le] using hp

/-- A_64 and C_64 differ by less than 2^48, which |c| ≤ 2^20 keeps far below the half unit 2^71 (R139). -/
theorem reflF_isolates {c : Word} (hc : |c.toInt| ≤ 1048576) : Isolates c (reflF 64 c c) := by
  have hlo := neg_abs_le c.toInt
  have hhi := le_abs_self c.toInt
  have hp : -(2 * |c.toInt|) ≤ (flatA 64 * c.toInt + flatB 64 * c.toInt + 0x800000000000000000) >>> (72 : Nat) ∧
      (flatA 64 * c.toInt + flatB 64 * c.toInt + 0x800000000000000000) >>> (72 : Nat) ≤ 2 * |c.toInt| := by
    rw [flatA, flatB, romT_butterfly, romS_butterfly, Int.shiftRight_eq_div_pow]
    omega
  have hq : (flatC 64 * c.toInt - flatA 64 * c.toInt + 0x800000000000000000) >>> (72 : Nat) = 0 := by
    rw [flatA, flatC, romT_butterfly, romS_butterfly, Int.shiftRight_eq_div_pow]
    omega
  refine ⟨?_, reflF_ovf_of_lt le_rfl (by omega) (by omega), ?_⟩
  · simp only [reflF, hq, store_zero]
  · rw [reflF, store_val_toInt_of_range (by omega) (by omega), abs_le]
    exact hp

theorem reflect_isolates (fam : Family) {c : Word} (hc : |c.toInt| ≤ 1048576) : Isolates c (reflect fam 64 c c) := by
  cases fam with
  | precise => exact reflP_isolates hc
  | flattened => exact reflF_isolates hc

theorem elt_replicate {N i : Nat} (c : Word) (h : i < N) : elt (List.replicate N c) i = c := by simp [elt, h]

theorem c2Butterflies_replicate (fam : Family) (h : Nat) (c : Word) :
    c2Butterflies fam h (List.replicate (2 * h) c) = List.replicate h (reflect fam 64 c c) := by
  refine List.eq_replicate_iff.2 ⟨length_c2Butterflies .., fun r hr => ?_⟩
  obtain ⟨i, hi, rfl⟩ := List.mem_map.1 hr
  have hi' : i < h := List.mem_range.1 hi
  rw [elt_replicate c (by omega), elt_replicate c (by omega)]

/-- C2 of a constant vector is C2 of the constant vector of sums and, in the odd half, zeros (R153, R178). -/
theorem c2_replicate_succ (fam : Family) (n : Nat) {c : Word} (hc : |c.toInt| ≤ 1048576) :
    c2 fam (n + 1) (List.replicate (2 ^ (n + 1)) c) =
      (let e := c2 fam n (List.replicate (2 ^ n) (reflect fam 64 c c).p)
      ⟨e.vec ++ List.replicate (2 ^ n) 0#32, e.ovf⟩) := by
  obtain ⟨hq, hovf, -⟩ := reflect_isolates fam hc
  have hrot : anyRot (List.replicate (2 ^ n) (reflect fam 64 c c)) = false := by simp [anyRot, hovf]
  rw [Nat.pow_succ', c2, c2Butterflies_replicate]
  simp [hrot, hq, (c2_s4_zero fam n).2, signAdjust]

/-- DC isolation: each level halves the vector and at most doubles the constant, so the bound on |c|·N is kept (R178). -/
theorem c2_replicate_isolated (fam : Family) (n : Nat) {c : Word} (hc : |c.toInt| * 2 ^ n ≤ 2097152) :
    (c2 fam n (List.replicate (2 ^ n) c)).ovf = false ∧
      ∀ i < 2 ^ n, i ≠ 0 → elt (c2 fam n (List.replicate (2 ^ n) c)).vec i = 0#32 := by
  induction n generalizing c with
  | zero => exact ⟨rfl, fun i hi hi0 => absurd hi (by omega)⟩
  | succ n ih =>
    rw [pow_succ'] at hc
    have hpow : (1 : Int) ≤ 2 ^ n := one_le_pow₀ (by norm_num)
    have hc' : |c.toInt| ≤ 1048576 := by nlinarith [abs_nonneg c.toInt]
    obtain ⟨hovf, hzero⟩ := ih (c := (reflect fam 64 c c).p) (by nlinarith [(reflect_isolates fam hc').p])
    rw [c2_replicate_succ fam n hc']
    refine ⟨hovf, fun i hi hi0 => ?_⟩
    by_cases hin : i < 2 ^ n
    · rw [elt_append_left (by simpa), hzero i hin hi0]
    · rw [elt_append_right (by simpa using hin), elt_replicate_zero]

/-! ## The guard bits (R181) -/

/-! ### The exact reflection and the rounded rotations -/

/-- The exact first output of angle k's reflection, the matrix of R133 unrounded. -/
def imageP (k : Nat) (a b : Int) : ℚ := (flatA k * a + flatB k * b) / 2 ^ 72

/-- The exact second output of angle k's reflection. -/
def imageQ (k : Nat) (a b : Int) : ℚ := (flatC k * a - flatA k * b) / 2 ^ 72

/-- T_k/2^24 is near tan(θ_k/2) ≤ 1/2 and S_k/2^24 near sin θ_k ≤ 1, and B_k and C_k agree to 2^60, that is to 2^−12 of
their unit 2^72 (R128, R134). -/
theorem rom_bounds : ∀ k < 65, romT k ≤ 8388608 ∧ romS k ≤ 16777216 ∧
    -1152921504606846976 ≤ flatC k - flatB k ∧ flatC k - flatB k ≤ 1152921504606846976 := by
  decide

/-- While the squares of its two inputs add up to at most this, no store of a rotation wraps. -/
def energyLimit : ℚ := 3 * 2 ^ 60

/-- The factor by which one layer of rotations, rounding included, can make a vector's energy grow. -/
def layerGrowth : ℚ := 17 / 16

/-- A matrix (c, u; s, −c) of determinant −1 whose s and u are close is close to an isometry. -/
theorem reflection_sq_le {c s u a b : ℚ} (hdet : c ^ 2 + u * s = 1) (hc : 0 ≤ c) (hs : 0 ≤ s) (hu : 0 ≤ u)
    (hcu : c + u ≤ 3 / 2) (hsc : s + c ≤ 3 / 2) (hclose : |s - u| ≤ 1 / 128) :
    (c * a + u * b) ^ 2 + (s * a - c * b) ^ 2 ≤ 65 / 64 * (a ^ 2 + b ^ 2) := by
  have hexpand : (c * a + u * b) ^ 2 + (s * a - c * b) ^ 2 =
      a ^ 2 + b ^ 2 + (s - u) * (s * a ^ 2 - u * b ^ 2 - 2 * c * a * b) := by
    linear_combination (a ^ 2 + b ^ 2) * hdet
  have hform : |s * a ^ 2 - u * b ^ 2 - 2 * c * a * b| ≤ 3 / 2 * (a ^ 2 + b ^ 2) := by
    rw [abs_le]
    constructor <;> nlinarith [mul_nonneg hc (sq_nonneg (a + b)), mul_nonneg hc (sq_nonneg (a - b)),
      mul_nonneg hs (sq_nonneg a), mul_nonneg hu (sq_nonneg b), sq_nonneg a, sq_nonneg b]
  have hprod : (s - u) * (s * a ^ 2 - u * b ^ 2 - 2 * c * a * b) ≤ 1 / 128 * (3 / 2 * (a ^ 2 + b ^ 2)) :=
    (le_abs_self _).trans (by rw [abs_mul]; exact mul_le_mul hclose hform (abs_nonneg _) (by norm_num))
  nlinarith [sq_nonneg a, sq_nonneg b]

/-- The exact reflection of the ROM's angle is close to an isometry. -/
theorem image_sq_le {k : Nat} (hk : k ≤ 64) (a b : Int) :
    imageP k a b ^ 2 + imageQ k a b ^ 2 ≤ 65 / 64 * ((a : ℚ) ^ 2 + (b : ℚ) ^ 2) := by
  obtain ⟨hA, hB, hC, hAB, hCA⟩ := flat_entries_bounds k (by omega)
  obtain ⟨-, -, hlo, hhi⟩ := rom_bounds k (by omega)
  have hdet : (flatA k : ℚ) * flatA k + flatB k * flatC k = 2 ^ 144 := by exact_mod_cast flatA_sq_add_flatB_mul_flatC k
  qify at hA hB hC hAB hCA hlo hhi
  have key := reflection_sq_le (c := flatA k / 2 ^ 72) (s := flatC k / 2 ^ 72) (u := flatB k / 2 ^ 72) (a := a) (b := b)
    (by linarith) (by positivity) (by positivity) (by positivity) (by linarith) (by linarith)
    (by rw [abs_le]; constructor <;> linarith)
  convert key using 3 <;> simp only [imageP, imageQ] <;> ring

/-- mulr is within half a unit of the exact product (R124). -/
theorem mulr_near (v : Word) (m : Nat) : |(mulr v m : ℚ) - v.toInt * (m / 2 ^ 24)| ≤ 1 / 2 := by
  obtain ⟨hlo, hhi⟩ := mulr_bounds v m
  qify at hlo hhi
  rw [abs_le]
  constructor <;> linarith

/-- So is the flattened rotation's rounding by 2^72 (R133). -/
theorem round_near (x : Int) : |(((x + 0x800000000000000000) >>> (72 : Nat) : Int) : ℚ) - x / 2 ^ 72| ≤ 1 / 2 := by
  have hlo : 4722366482869645213696 * ((x + 0x800000000000000000) >>> (72 : Nat)) ≤ x + 0x800000000000000000 := by
    rw [Int.shiftRight_eq_div_pow]; omega
  have hhi : x + 0x800000000000000000 < 4722366482869645213696 * ((x + 0x800000000000000000) >>> (72 : Nat)) +
      4722366482869645213696 := by
    rw [Int.shiftRight_eq_div_pow]; omega
  qify at hlo hhi
  rw [abs_le]
  constructor <;> linarith

/-- An integer near a number whose square is at most 15/4 of 2^60 is a word, and so is its negation. -/
theorem isWord_of_near {e : Int} {x : ℚ} (h : |(e : ℚ) - x| ≤ 2) (hx : x ^ 2 ≤ 15 / 4 * 2 ^ 60) :
    IsWord e ∧ IsWord (-e) := by
  have hx' : |x| ≤ 2 ^ 31 - 4 := abs_le_of_sq_le_sq (by linarith) (by norm_num)
  obtain ⟨h1, h2⟩ := abs_le.1 h
  obtain ⟨h3, h4⟩ := abs_le.1 hx'
  have hlo : -2147483648 < e := by qify; linarith
  have hhi : e < 2147483648 := by qify; linarith
  exact ⟨⟨hlo.le, hhi⟩, by omega, by omega⟩

/-- The exact factor of the first and the third shear, T_k in units of 2^24 (R126). -/
def shearT (k : Nat) : ℚ := romT k / 2 ^ 24

/-- The exact factor of the second shear, S_k in units of 2^24 (R126). -/
def shearS (k : Nat) : ℚ := romS k / 2 ^ 24

theorem imageP_eq_shears (k : Nat) (a b : Int) :
    imageP k a b = (1 - shearT k * shearS k) * a + shearT k * (2 - shearT k * shearS k) * b := by
  simp only [imageP, flatA, flatB, shearT, shearS]
  push_cast
  ring

theorem imageQ_eq_shears (k : Nat) (a b : Int) :
    imageQ k a b = shearS k * a - (1 - shearT k * shearS k) * b := by
  simp only [imageQ, flatA, flatC, shearT, shearS]
  push_cast
  ring

theorem shearT_bounds {k : Nat} (hk : k ≤ 64) : 0 ≤ shearT k ∧ shearT k ≤ 1 / 2 := by
  obtain ⟨hT, -, -, -⟩ := rom_bounds k (by omega)
  have hT' : (romT k : ℚ) ≤ 8388608 := by exact_mod_cast hT
  exact ⟨by rw [shearT]; positivity, by rw [shearT]; linarith⟩

theorem shearS_bounds {k : Nat} (hk : k ≤ 64) : 0 ≤ shearS k ∧ shearS k ≤ 1 := by
  obtain ⟨-, hS, -, -⟩ := rom_bounds k (by omega)
  have hS' : (romS k : ℚ) ≤ 16777216 := by exact_mod_cast hS
  exact ⟨by rw [shearS]; positivity, by rw [shearS]; linarith⟩

/-! The three shears with integers that are within half a unit of the exact ones. -/

section Shears
variable {k : Nat} {a b e₁ e₂ e₃ : Int} (hk : k ≤ 64) (hab : (a : ℚ) ^ 2 + (b : ℚ) ^ 2 ≤ energyLimit)
  (h₁ : |(e₁ : ℚ) - (a + b * shearT k)| ≤ 1 / 2) (h₂ : |(e₂ : ℚ) - (b - e₁ * shearS k)| ≤ 1 / 2)
  (h₃ : |(e₃ : ℚ) - (e₁ + e₂ * shearT k)| ≤ 1 / 2)
include hk

include hab in
theorem image_sq_le_of_limit : imageP k a b ^ 2 ≤ 15 / 4 * 2 ^ 60 ∧ imageQ k a b ^ 2 ≤ 15 / 4 * 2 ^ 60 := by
  have hle := image_sq_le hk a b
  rw [energyLimit] at hab
  constructor <;> linarith [sq_nonneg (imageP k a b), sq_nonneg (imageQ k a b)]

include hab h₁ in
theorem isWord_first_shear : IsWord e₁ := by
  obtain ⟨ht0, ht1⟩ := shearT_bounds hk
  refine (isWord_of_near (h₁.trans (by norm_num)) ?_).1
  rw [energyLimit] at hab
  have ht2 : shearT k ^ 2 ≤ 1 / 4 := by nlinarith
  have hprod := mul_le_mul_of_nonneg_right ht2 (add_nonneg (sq_nonneg (a : ℚ)) (sq_nonneg (b : ℚ)))
  nlinarith [sq_nonneg (a * shearT k - b)]

include h₁ h₂ in
theorem second_shear_near : |e₂ + imageQ k a b| ≤ 1 := by
  obtain ⟨hs0, hs1⟩ := shearS_bounds hk
  have hs : |shearS k * (e₁ - (a + b * shearT k))| ≤ 1 / 2 := by
    rw [abs_mul, abs_of_nonneg hs0]
    exact (mul_le_of_le_one_left (abs_nonneg _) hs1).trans h₁
  calc |e₂ + imageQ k a b|
      = |((e₂ : ℚ) - (b - e₁ * shearS k)) - shearS k * (e₁ - (a + b * shearT k))| := by
        rw [imageQ_eq_shears]; ring_nf
    _ ≤ 1 := (abs_sub _ _).trans (by linarith)

include h₁ h₂ h₃ in
theorem third_shear_near : |(e₃ : ℚ) - imageP k a b| ≤ 2 := by
  obtain ⟨ht0, ht1⟩ := shearT_bounds hk
  have hq := second_shear_near hk h₁ h₂
  have ht : |shearT k * (e₂ + imageQ k a b)| ≤ 1 := by
    rw [abs_mul, abs_of_nonneg ht0]
    exact (mul_le_of_le_one_left (abs_nonneg _) (by linarith)).trans hq
  calc |(e₃ : ℚ) - imageP k a b|
      = |((e₃ : ℚ) - (e₁ + e₂ * shearT k)) + (e₁ - (a + b * shearT k)) + shearT k * (e₂ + imageQ k a b)| := by
        rw [imageP_eq_shears, imageQ_eq_shears]; ring_nf
    _ ≤ 2 := (abs_add_three _ _ _).trans (by linarith)

end Shears

/-- A rotation wraps nowhere and stays near the exact reflection. -/
structure NearImage (k : Nat) (a b : Int) (r : Rotated) : Prop where
  ovf : r.ovf = false
  p : |(r.p.toInt : ℚ) - imageP k a b| ≤ 2
  q : |(r.q.toInt : ℚ) - imageQ k a b| ≤ 2

theorem toInt_ofInt_of_isWord {e : Int} (h : IsWord e) : (BitVec.ofInt 32 e).toInt = e :=
  store_val_toInt_of_range h.1 h.2

theorem ne_min_of_isWord_neg {x : Word} (h : IsWord (-x.toInt)) : x ≠ 0x80000000#32 := (isWord_neg_toInt_iff x).1 h

/-- An added product is rounded once, with the exact values of the words that stores without wrap hold. -/
theorem add_mulr_near {x e : Int} {w v : Word} (hw : w.toInt = x) (hv : v.toInt = e) (m : Nat) :
    |((w.toInt + mulr v m : Int) : ℚ) - (x + e * (m / 2 ^ 24))| ≤ 1 / 2 := by
  rw [Int.cast_add, hw, add_sub_add_left_eq_sub, ← hv]
  exact mulr_near v m

theorem sub_mulr_near {x e : Int} {w v : Word} (hw : w.toInt = x) (hv : v.toInt = e) (m : Nat) :
    |((w.toInt - mulr v m : Int) : ℚ) - (x - e * (m / 2 ^ 24))| ≤ 1 / 2 := by
  rw [Int.cast_sub, hw, sub_sub_sub_cancel_left, abs_sub_comm, ← hv]
  exact mulr_near v m

/-- The three shears of a precise rotation, or of its inverse with the second shear's sign turned: their stores do not wrap,
and they end near the exact reflection (R126, R127). -/
theorem shears_near {k : Nat} (hk : k ≤ 64) {a b e₁ e₂ e₃ : Int}
    (hab : (a : ℚ) ^ 2 + (b : ℚ) ^ 2 ≤ energyLimit) (h₁ : |(e₁ : ℚ) - (a + b * shearT k)| ≤ 1 / 2)
    (h₂ : IsWord e₁ → |(e₂ : ℚ) - (b - e₁ * shearS k)| ≤ 1 / 2)
    (h₃ : IsWord e₁ → IsWord e₂ ∧ IsWord (-e₂) → |(e₃ : ℚ) - (e₁ + e₂ * shearT k)| ≤ 1 / 2) :
    IsWord e₁ ∧ (IsWord e₂ ∧ IsWord (-e₂)) ∧ IsWord e₃ ∧
      |(e₃ : ℚ) - imageP k a b| ≤ 2 ∧ |e₂ + imageQ k a b| ≤ 2 := by
  obtain ⟨hP, hQ⟩ := image_sq_le_of_limit hk hab
  have w₁ := isWord_first_shear hk hab h₁
  have hq := (second_shear_near hk h₁ (h₂ w₁)).trans one_le_two
  have w₂ := isWord_of_near (x := -imageQ k a b) (by rwa [sub_neg_eq_add]) (by rwa [neg_sq])
  have hp := third_shear_near hk h₁ (h₂ w₁) (h₃ w₁ w₂)
  exact ⟨w₁, w₂, (isWord_of_near hp hP).1, hp, hq⟩

theorem reflP_near {k : Nat} (hk : k ≤ 64) {a b : Word} (hab : (a.toInt : ℚ) ^ 2 + (b.toInt : ℚ) ^ 2 ≤ energyLimit) :
    NearImage k a.toInt b.toInt (reflP k a b) := by
  obtain ⟨hp, hq, hovf⟩ := reflP_eq_rule k a b
  set e₁ := a.toInt + mulr b (romT k)
  set e₂ := b.toInt - mulr (BitVec.ofInt 32 e₁) (romS k)
  set e₃ := (BitVec.ofInt 32 e₁).toInt + mulr (BitVec.ofInt 32 e₂) (romT k)
  obtain ⟨w₁, ⟨w₂, w₂neg⟩, w₃, nearP, nearQ⟩ := shears_near hk hab (e₁ := e₁) (e₂ := e₂) (e₃ := e₃)
    (add_mulr_near rfl rfl _) (fun w₁ => sub_mulr_near rfl (toInt_ofInt_of_isWord w₁) _)
    (fun w₁ w₂ => add_mulr_near (toInt_ofInt_of_isWord w₁) (toInt_ofInt_of_isWord w₂.1) _)
  have hmin : BitVec.ofInt 32 e₂ ≠ 0x80000000#32 := ne_min_of_isWord_neg (by rwa [toInt_ofInt_of_isWord w₂])
  refine ⟨hovf.2 ⟨w₁, w₂, w₃, hmin⟩, ?_, ?_⟩
  · rwa [hp, toInt_ofInt_of_isWord w₃]
  · rwa [hq, toInt_neg_of_ne hmin, toInt_ofInt_of_isWord w₂, Int.cast_neg, ← neg_add', abs_neg]

/-- The inverse's second shear is the forward one's with the opposite sign, so its own value stands for −e₂. -/
theorem ireflP_near {k : Nat} (hk : k ≤ 64) {a b : Word} (hab : (a.toInt : ℚ) ^ 2 + (b.toInt : ℚ) ^ 2 ≤ energyLimit) :
    NearImage k a.toInt b.toInt (ireflP k a b) := by
  obtain ⟨hp, hq, hovf⟩ := ireflP_eq_rule k a b
  have hb : IsWord (-b.toInt) := (isWord_of_near (x := b.toInt) (by simp) (by rw [energyLimit] at hab; nlinarith)).2
  have hmin := ne_min_of_isWord_neg hb
  set e₁ := a.toInt - mulr (-b) (romT k)
  set e₂ := (-b).toInt + mulr (BitVec.ofInt 32 e₁) (romS k)
  set e₃ := (BitVec.ofInt 32 e₁).toInt - mulr (BitVec.ofInt 32 e₂) (romT k)
  have hneg : (-b).toInt = -b.toInt := toInt_neg_of_ne hmin
  obtain ⟨w₁, ⟨-, w₂⟩, w₃, nearP, nearQ⟩ := shears_near hk hab (e₁ := e₁) (e₂ := -e₂) (e₃ := e₃)
    (by
      have h := sub_mulr_near (w := a) rfl hneg (romT k)
      rwa [Int.cast_neg, neg_mul, sub_neg_eq_add] at h)
    (fun w₁ => by
      calc |((-e₂ : Int) : ℚ) - (b.toInt - e₁ * shearS k)|
          = |(e₂ : ℚ) - ((-b.toInt : Int) + e₁ * shearS k)| := by rw [← abs_neg]; push_cast; ring_nf
        _ ≤ 1 / 2 := add_mulr_near hneg (toInt_ofInt_of_isWord w₁) _)
    (fun w₁ w₂ => by
      rw [Int.cast_neg, neg_mul, ← sub_eq_add_neg]
      exact sub_mulr_near (toInt_ofInt_of_isWord w₁) (toInt_ofInt_of_isWord (neg_neg e₂ ▸ w₂.2)) _)
  rw [neg_neg] at w₂
  refine ⟨hovf.2 ⟨hmin, w₁, w₂, w₃⟩, ?_, ?_⟩
  · rwa [hp, toInt_ofInt_of_isWord w₃]
  · rwa [hq, toInt_ofInt_of_isWord w₂, ← abs_neg, neg_sub', sub_neg_eq_add, ← Int.cast_neg]

theorem reflF_near {k : Nat} (hk : k ≤ 64) {a b : Word} (hab : (a.toInt : ℚ) ^ 2 + (b.toInt : ℚ) ^ 2 ≤ energyLimit) :
    NearImage k a.toInt b.toInt (reflF k a b) := by
  obtain ⟨hP, hQ⟩ := image_sq_le_of_limit hk hab
  have nearP := (round_near (flatA k * a.toInt + flatB k * b.toInt)).trans (by norm_num : (1 / 2 : ℚ) ≤ 2)
  have nearQ := (round_near (flatC k * a.toInt - flatA k * b.toInt)).trans (by norm_num : (1 / 2 : ℚ) ≤ 2)
  push_cast at nearP nearQ
  rw [← imageP] at nearP
  rw [← imageQ] at nearQ
  have wP := (isWord_of_near nearP hP).1
  have wQ := (isWord_of_near nearQ hQ).1
  constructor
  · simp only [reflF, Bool.or_eq_false_iff, store_ovf_eq_false_iff_isWord]
    exact ⟨wP, wQ⟩
  · rwa [reflF, store_val_toInt_of_range wP.1 wP.2]
  · rwa [reflF, store_val_toInt_of_range wQ.1 wQ.2]

section Energy
open Finset (range Ico)

/-! ### The energy of a vector -/

/-- A word's square with a constant that covers a rotation's rounding errors, so that a rotation makes the sum of its two
weights grow by a factor alone. -/
def weight (x : Word) : ℚ := (x.toInt : ℚ) ^ 2 + 4096

theorem weight_pos (x : Word) : 0 < weight x := by rw [weight]; positivity

/-- The sum of the weights of a vector's first N words. -/
def energy (N : Nat) (x : List Word) : ℚ := ∑ i ∈ range N, weight (elt x i)

/-- Within the limit, a rotation wraps nowhere and makes the weight of a pair grow by the factor `layerGrowth` at most. -/
def Tame (rot : Word → Word → Rotated) : Prop :=
  ∀ a b, weight a + weight b ≤ energyLimit →
    (rot a b).ovf = false ∧ weight (rot a b).p + weight (rot a b).q ≤ layerGrowth * (weight a + weight b)

theorem sq_le_of_near {y x : ℚ} (h : |y - x| ≤ 2) : y ^ 2 ≤ 33 / 32 * x ^ 2 + 132 := by
  have h2 : (y - x) ^ 2 ≤ 4 := by nlinarith [abs_le.1 h]
  nlinarith [sq_nonneg (x - 32 * (y - x))]

theorem tame_of_near {k : Nat} (hk : k ≤ 64) {rot : Word → Word → Rotated}
    (h : ∀ a b : Word, (a.toInt : ℚ) ^ 2 + (b.toInt : ℚ) ^ 2 ≤ energyLimit → NearImage k a.toInt b.toInt (rot a b)) :
    Tame rot := by
  intro a b hab
  simp only [weight] at hab ⊢
  obtain ⟨hovf, hp, hq⟩ := h a b (by linarith)
  have himage := image_sq_le hk a.toInt b.toInt
  have hp' := sq_le_of_near hp
  have hq' := sq_le_of_near hq
  refine ⟨hovf, ?_⟩
  rw [layerGrowth]
  linarith [sq_nonneg (a.toInt : ℚ), sq_nonneg (b.toInt : ℚ)]

theorem reflect_tame (fam : Family) {k : Nat} (hk : k ≤ 64) : Tame (reflect fam k) := by
  cases fam with
  | precise => exact tame_of_near hk fun a b => reflP_near hk
  | flattened => exact tame_of_near hk fun a b => reflF_near hk

theorem ireflect_tame (fam : Family) {k : Nat} (hk : k ≤ 64) : Tame (ireflect fam k) := by
  cases fam with
  | precise => exact tame_of_near hk fun a b => ireflP_near hk
  | flattened => exact tame_of_near hk fun a b => reflF_near hk

theorem weight_neg (x : Word) : weight (-x) = weight x := by
  by_cases hx : x = 0x80000000#32
  · rw [hx]; rfl
  · simp only [weight, toInt_neg_of_ne hx, Int.cast_neg, neg_sq]

theorem weight_negate (x : Word) : weight (negate x).val = weight x := by rw [negate_val, weight_neg]

theorem negate_ovf_of_weight {x : Word} (hx : weight x ≤ energyLimit) : (negate x).ovf = false := by
  rw [negate_ovf_eq_false_iff]
  rintro rfl
  have hmin : (0x80000000#32 : Word).toInt = -2147483648 := by decide
  norm_num [weight, energyLimit, hmin] at hx

theorem energy_nonneg (N : Nat) (x : List Word) : 0 ≤ energy N x :=
  Finset.sum_nonneg fun _ _ => (weight_pos _).le

theorem weight_le_energy {N i : Nat} (x : List Word) (hi : i < N) : weight (elt x i) ≤ energy N x :=
  Finset.single_le_sum (f := fun i => weight (elt x i)) (fun _ _ => (weight_pos _).le) (Finset.mem_range.2 hi)

theorem energy_map_range (N : Nat) (f : Nat → Word) : energy N ((List.range N).map f) = ∑ i ∈ range N, weight (f i) :=
  Finset.sum_congr rfl fun i hi => by rw [elt_map_range (Finset.mem_range.1 hi)]

theorem energy_reverse {h : Nat} {x : List Word} (hx : x.length = h) : energy h x.reverse = energy h x := by
  rw [energy, energy, ← Finset.sum_range_reflect fun i => weight (elt x i)]
  refine Finset.sum_congr rfl fun i hi => ?_
  have hi' := Finset.mem_range.1 hi
  rw [elt_reverse (by omega), hx]

theorem energy_halves (h : Nat) (x : List Word) :
    energy (2 * h) x = energy h x + ∑ i ∈ range h, weight (elt x (h + i)) := by
  rw [energy, two_mul, Finset.sum_range_add]
  rfl

theorem energy_append {h : Nat} {x : List Word} (hx : x.length = h) (y : List Word) :
    energy (2 * h) (x ++ y) = energy h x + energy h y := by
  rw [energy_halves]
  congr 1
  · exact Finset.sum_congr rfl fun i hi => by rw [elt_append_left (hx ▸ Finset.mem_range.1 hi)]
  · exact Finset.sum_congr rfl fun i _ => by rw [elt_append_length_add hx]

theorem energy_take_drop (h : Nat) (x : List Word) :
    energy h (x.take h) + energy h (x.drop h) = energy (2 * h) x := by
  rw [energy_halves]
  congr 1
  · exact Finset.sum_congr rfl fun i hi => by rw [elt_take (Finset.mem_range.1 hi)]
  · exact Finset.sum_congr rfl fun i _ => by rw [elt_drop]

/-- The energy by the pairs that step (1) of each composer rotates (R153, R154). -/
theorem energy_pairs (h : Nat) (x : List Word) :
    energy (2 * h) x = ∑ i ∈ range h, (weight (elt x i) + weight (elt x (2 * h - 1 - i))) := by
  rw [energy_halves, Finset.sum_add_distrib, ← Finset.sum_range_reflect fun i => weight (elt x (h + i))]
  refine congrArg _ (Finset.sum_congr rfl fun i hi => ?_)
  have hi' := Finset.mem_range.1 hi
  rw [show h + (h - 1 - i) = 2 * h - 1 - i by omega]

/-- A sum over slots is the term of slot 0 and the terms of the slots of the other frequencies. -/
theorem sum_slots (n : Nat) (f : Nat → ℚ) :
    ∑ i ∈ range (2 ^ n), f i = f 0 + ∑ j ∈ Ico 1 (2 ^ n), f (sigma n j) := by
  have hperm : ∑ i ∈ range (2 ^ n), f i = ∑ j ∈ range (2 ^ n), f (sigma n j) :=
    Finset.sum_bij' (fun i _ => nth (permC2 n) i) (fun j _ => sigma n j)
      (fun i hi => Finset.mem_range.2 (nth_permC2_lt (Finset.mem_range.1 hi)))
      (fun j hj => Finset.mem_range.2 (sigma_lt (Finset.mem_range.1 hj)))
      (fun i hi => sigma_nth_permC2 (Finset.mem_range.1 hi))
      (fun j hj => nth_permC2_sigma (Finset.mem_range.1 hj))
      (fun i hi => by rw [sigma_nth_permC2 (Finset.mem_range.1 hi)])
  rw [hperm, Finset.range_eq_Ico, Finset.sum_eq_sum_Ico_succ_bot (Nat.two_pow_pos n), sigma_zero]

theorem sum_slots_reverse (n : Nat) (f : Nat → ℚ) :
    ∑ i ∈ range (2 ^ n), f i = f 0 + ∑ j ∈ Ico 1 (2 ^ n), f (sigma n (2 ^ n - j)) := by
  rw [sum_slots]
  have h := Finset.sum_Ico_reflect (fun j => f (sigma n j)) 1 (Nat.le_succ (2 ^ n))
  rw [Nat.add_sub_cancel_left, Nat.add_sub_cancel] at h
  rw [h]

theorem one_le_layerGrowth : 1 ≤ layerGrowth := by norm_num [layerGrowth]

/-! ### The steps of the composers -/

/-- Rotations on disjoint pairs wrap nowhere and make the sum of the weights grow by one factor at most. -/
theorem sum_tame {s : Finset Nat} {rot : Nat → Word → Word → Rotated} {a b : Nat → Word}
    (hrot : ∀ i ∈ s, Tame (rot i)) (h : ∑ i ∈ s, (weight (a i) + weight (b i)) ≤ energyLimit) :
    (∀ i ∈ s, (rot i (a i) (b i)).ovf = false) ∧
    ∑ i ∈ s, (weight (rot i (a i) (b i)).p + weight (rot i (a i) (b i)).q) ≤
      layerGrowth * ∑ i ∈ s, (weight (a i) + weight (b i)) := by
  have hpair : ∀ i ∈ s, weight (a i) + weight (b i) ≤ energyLimit := fun i hi =>
    (Finset.single_le_sum (f := fun i => weight (a i) + weight (b i))
      (fun _ _ => (add_pos (weight_pos _) (weight_pos _)).le) hi).trans h
  refine ⟨fun i hi => (hrot i hi _ _ (hpair i hi)).1, ?_⟩
  rw [Finset.mul_sum]
  exact Finset.sum_le_sum fun i hi => (hrot i hi _ _ (hpair i hi)).2

theorem anyRot_eq_false {f : Nat → Rotated} {h : Nat} (hf : ∀ i < h, (f i).ovf = false) :
    anyRot ((List.range h).map f) = false := by
  rw [← Bool.not_eq_true, anyRot_map_range]
  rintro ⟨i, hi, hovf⟩
  exact absurd (hf i hi) (by simp [hovf])

/-- A layer of rotations, one for each i below h, on inputs whose weights make up E. -/
theorem layer_tame {h : Nat} {rot : Nat → Word → Word → Rotated} {a b : Nat → Word} {E : ℚ}
    (hrot : ∀ i < h, Tame (rot i)) (hE : ∑ i ∈ range h, (weight (a i) + weight (b i)) = E) (hlim : E ≤ energyLimit)
    {l : List Rotated} (hl : (List.range h).map (fun i => rot i (a i) (b i)) = l) :
    anyRot l = false ∧ energy h (ps l) + energy h (qs l) ≤ layerGrowth * E := by
  subst hl hE
  obtain ⟨hovf, hsum⟩ := sum_tame (fun i hi => hrot i (Finset.mem_range.1 hi)) hlim
  rw [ps_map_range, qs_map_range, energy_map_range, energy_map_range, ← Finset.sum_add_distrib]
  exact ⟨anyRot_eq_false fun i hi => hovf i (Finset.mem_range.2 hi), hsum⟩

theorem kidx_le {n i : Nat} (hi : i < 2 ^ n) : kidx (n + 1) i ≤ 64 := by
  rw [kidx_succ]
  exact Nat.div_le_of_le_mul (by nlinarith)

theorem c2Butterflies_tame (fam : Family) {h : Nat} {x : List Word} (hlim : energy (2 * h) x ≤ energyLimit) :
    anyRot (c2Butterflies fam h x) = false ∧
      energy h (ps (c2Butterflies fam h x)) + energy h (qs (c2Butterflies fam h x)) ≤ layerGrowth * energy (2 * h) x :=
  layer_tame (rot := fun _ => reflect fam 64) (fun _ _ => reflect_tame fam le_rfl) (energy_pairs h x).symm hlim rfl

theorem s4PreRotations_tame (fam : Family) {n : Nat} {x : List Word} (hlim : energy (2 * 2 ^ n) x ≤ energyLimit) :
    anyRot (s4PreRotations fam n x) = false ∧
      energy (2 ^ n) (ps (s4PreRotations fam n x)) + energy (2 ^ n) (qs (s4PreRotations fam n x)) ≤
        layerGrowth * energy (2 * 2 ^ n) x :=
  layer_tame (rot := fun i => reflect fam (kidx (n + 1) i)) (fun _ hi => reflect_tame fam (kidx_le hi))
    (by simp only [energy_pairs, Nat.pow_succ', add_comm]) hlim rfl

theorem ic2Butterflies_tame (fam : Family) {h : Nat} {s d : List Word} (hlim : energy h s + energy h d ≤ energyLimit) :
    anyRot (ic2Butterflies fam h s d) = false ∧
      energy h (ps (ic2Butterflies fam h s d)) + energy h (qs (ic2Butterflies fam h s d)) ≤
        layerGrowth * (energy h s + energy h d) :=
  layer_tame (rot := fun _ => ireflect fam 64) (fun _ _ => ireflect_tame fam le_rfl) Finset.sum_add_distrib hlim rfl

theorem is4PreRotations_tame (fam : Family) {n : Nat} {u v : List Word}
    (hlim : energy (2 ^ n) u + energy (2 ^ n) v ≤ energyLimit) :
    anyRot (is4PreRotations fam n u v) = false ∧
      energy (2 ^ n) (ps (is4PreRotations fam n u v)) + energy (2 ^ n) (qs (is4PreRotations fam n u v)) ≤
        layerGrowth * (energy (2 ^ n) u + energy (2 ^ n) v) :=
  layer_tame (rot := fun i => ireflect fam (kidx (n + 1) i)) (fun _ hi => ireflect_tame fam (kidx_le hi))
    Finset.sum_add_distrib hlim rfl

/-- A store that copies a word or negates it, as all stores between the rotations do (R153, R154). -/
def Stored.Signed (r : Stored) : Prop := ∃ x, r = negate x ∨ r = ⟨x, false⟩

theorem Stored.Signed.ovf {r : Stored} (h : r.Signed) (hlim : weight r.val ≤ energyLimit) : r.ovf = false := by
  obtain ⟨x, rfl | rfl⟩ := h
  · exact negate_ovf_of_weight (by rwa [weight_negate] at hlim)
  · rfl

theorem signed_negateIf (b : Bool) (x : Word) : (negateIf b x).Signed := by
  cases b
  · exact ⟨x, .inr rfl⟩
  · exact ⟨x, .inl rfl⟩

/-- Stores that copy or negate wrap nowhere when the words they leave have an energy within the limit. -/
theorem anySt_of_energy {h : Nat} {f : Nat → Stored} (hf : ∀ i, (f i).Signed) {l : List Stored}
    (hl : (List.range h).map f = l) (hlim : energy h (vals l) ≤ energyLimit) : anySt l = false := by
  subst hl
  rw [← Bool.not_eq_true, anySt_map_range]
  rintro ⟨i, hi, hovf⟩
  have hle := (weight_le_energy _ hi).trans hlim
  rw [elt_vals_map_range hi] at hle
  exact absurd ((hf i).ovf hle) (by simp [hovf])

theorem weight_negateIf (b : Bool) (x : Word) : weight (negateIf b x).val = weight x := by
  cases b
  · rfl
  · exact weight_negate x

theorem energy_signAdjust (n : Nat) (f : List Word) : energy (2 ^ n) (vals (signAdjust n f)) = energy (2 ^ n) f := by
  rw [signAdjust, vals_map_range, energy_map_range]
  exact Finset.sum_congr rfl fun _ _ => weight_negateIf _ _

theorem energy_alternate (n : Nat) (v : List Word) : energy (2 ^ n) (vals (alternate n v)) = energy (2 ^ n) v := by
  rw [alternate, vals_map_range, energy_map_range]
  exact Finset.sum_congr rfl fun _ _ => weight_negateIf _ _

theorem anySt_signAdjust_of_energy {n : Nat} {f : List Word} (hlim : energy (2 ^ n) f ≤ energyLimit) :
    anySt (signAdjust n f) = false :=
  anySt_of_energy (fun _ => signed_negateIf _ _) rfl ((energy_signAdjust n f).trans_le hlim)

theorem anySt_alternate_of_energy {n : Nat} {v : List Word} (hlim : energy (2 ^ n) v ≤ energyLimit) :
    anySt (alternate n v) = false :=
  anySt_of_energy (fun _ => signed_negateIf _ _) rfl ((energy_alternate n v).trans_le hlim)

theorem anySt_s4FirstHalf_of_energy {n : Nat} {u : List Word} {post : List Rotated}
    (hlim : energy (2 ^ n) (vals (s4FirstHalf n u post)) ≤ energyLimit) :
    anySt (s4FirstHalf n u post) = false := by
  refine anySt_of_energy (fun a => ?_) rfl hlim
  split
  · exact ⟨_, .inr rfl⟩
  · exact ⟨_, .inl rfl⟩

theorem anySt_s4SecondHalf_of_energy {n : Nat} {v : List Word} {post : List Rotated}
    (hlim : energy (2 ^ n) (vals (s4SecondHalf n v post)) ≤ energyLimit) :
    anySt (s4SecondHalf n v post) = false := by
  refine anySt_of_energy (fun b => ?_) rfl hlim
  split
  · exact ⟨_, .inl rfl⟩
  · exact ⟨_, .inr rfl⟩

theorem anySt_is4SecondHalf_of_energy {n : Nat} {o : List Word} {post : List Rotated}
    (hlim : energy (2 ^ n) (vals (is4SecondHalf n o post)) ≤ energyLimit) : anySt (is4SecondHalf n o post) = false := by
  rw [is4SecondHalf_eq] at hlim ⊢
  exact anySt_s4SecondHalf_of_energy hlim

/-! ### The post butterflies -/

/-- The energies of two vectors of 2^n words by the slots that the post butterflies pair (R154). -/
theorem energy_add_eq_post (n : Nat) (u v : List Word) :
    energy (2 ^ n) u + energy (2 ^ n) v = weight (elt u 0) + weight (elt v 0) +
      ∑ j ∈ Ico 1 (2 ^ n), (weight (elt u (sigma n j)) + weight (elt v (sigma n (2 ^ n - j)))) := by
  rw [energy, energy, sum_slots, sum_slots_reverse n fun i => weight (elt v i), Finset.sum_add_distrib]
  ring

/-- Butterflies that make u' at slot σ(j) and v' at slot σ(h−j) from u and v there, up to sign, where the words in slot 0
are moved only (R154, R157). -/
theorem post_tame {rot : Word → Word → Rotated} (hrot : Tame rot) {n : Nat} {u v u' v' : List Word}
    (hlim : energy (2 ^ n) u + energy (2 ^ n) v ≤ energyLimit)
    (hu0 : weight (elt u' 0) = weight (elt u 0)) (hv0 : weight (elt v' 0) = weight (elt v 0))
    (hu : ∀ j < 2 ^ n, 1 ≤ j →
      weight (elt u' (sigma n j)) = weight (rot (elt u (sigma n j)) (elt v (sigma n (2 ^ n - j)))).p)
    (hv : ∀ j < 2 ^ n, 1 ≤ j →
      weight (elt v' (sigma n (2 ^ n - j))) = weight (rot (elt u (sigma n j)) (elt v (sigma n (2 ^ n - j)))).q) :
    (∀ j < 2 ^ n, 1 ≤ j → (rot (elt u (sigma n j)) (elt v (sigma n (2 ^ n - j)))).ovf = false) ∧
      energy (2 ^ n) u' + energy (2 ^ n) v' ≤ layerGrowth * (energy (2 ^ n) u + energy (2 ^ n) v) := by
  have hw : 0 ≤ weight (elt u 0) + weight (elt v 0) := (add_pos (weight_pos _) (weight_pos _)).le
  rw [energy_add_eq_post] at hlim
  obtain ⟨hovf, hsum⟩ := sum_tame (s := Ico 1 (2 ^ n)) (a := fun j => elt u (sigma n j))
    (b := fun j => elt v (sigma n (2 ^ n - j))) (fun _ _ => hrot) (by linarith)
  refine ⟨fun j hj h1 => hovf j (Finset.mem_Ico.2 ⟨h1, hj⟩), ?_⟩
  have hout : ∑ j ∈ Ico 1 (2 ^ n), (weight (elt u' (sigma n j)) + weight (elt v' (sigma n (2 ^ n - j)))) = _ :=
    Finset.sum_congr rfl fun j hj => by
      obtain ⟨h1, hj'⟩ := Finset.mem_Ico.1 hj
      rw [hu j hj' h1, hv j hj' h1]
  rw [energy_add_eq_post n u' v', energy_add_eq_post n u v, hu0, hv0, hout, mul_add]
  exact add_le_add (le_mul_of_one_le_left hw one_le_layerGrowth) hsum

theorem s4Post_tame (fam : Family) {n : Nat} {u v : List Word} (hlim : energy (2 ^ n) u + energy (2 ^ n) v ≤ energyLimit) :
    anyRot (s4PostButterflies fam n u v) = false ∧
      energy (2 ^ n) (vals (s4FirstHalf n u (s4PostButterflies fam n u v))) +
          energy (2 ^ n) (vals (s4SecondHalf n v (s4PostButterflies fam n u v))) ≤
        layerGrowth * (energy (2 ^ n) u + energy (2 ^ n) v) := by
  obtain ⟨hovf, hsum⟩ := post_tame (reflect_tame fam le_rfl) hlim
    (u' := vals (s4FirstHalf n u (s4PostButterflies fam n u v)))
    (v' := vals (s4SecondHalf n v (s4PostButterflies fam n u v)))
    (by rw [elt_s4FirstHalf_zero]) (by rw [elt_s4SecondHalf_zero, weight_negate])
    (fun j hj h1 => by rw [elt_s4FirstHalf_sigma _ _ h1 hj, weight_negate, rotAt_s4PostButterflies _ _ _ h1 hj])
    (fun j hj h1 => by rw [elt_s4SecondHalf_sigma _ _ h1 hj, rotAt_s4PostButterflies _ _ _ h1 hj])
  refine ⟨Bool.eq_false_iff.2 (mt (anyRot_s4PostButterflies fam n u v).1 ?_), hsum⟩
  rintro ⟨j, hj, h1, htrue⟩
  exact absurd (hovf j hj h1) (by simp [htrue])

theorem elt_map_neg (x : List Word) (i : Nat) : elt (x.map fun w => -w) i = -elt x i := by
  by_cases hi : i < x.length <;> simp [elt, hi]

theorem energy_map_neg (N : Nat) (x : List Word) : energy N (x.map fun w => -w) = energy N x := by
  simp only [energy, elt_map_neg, weight_neg]

theorem is4Post_tame (fam : Family) {n : Nat} {o : List Word} (hlim : energy (2 * 2 ^ n) o ≤ energyLimit) :
    anyRot (is4Post fam n o) = false ∧
      energy (2 ^ n) (is4FirstHalf n o (is4Post fam n o)) + energy (2 ^ n) (vals (is4SecondHalf n o (is4Post fam n o))) ≤
        layerGrowth * energy (2 * 2 ^ n) o := by
  have hrot : ∀ j < 2 ^ n, 1 ≤ j → rotAt (is4Post fam n o) (j - 1) =
      ireflect fam 64 (elt ((o.take (2 ^ n)).map fun w => -w) (sigma n j))
        (elt (o.drop (2 ^ n)) (sigma n (2 ^ n - j))) := fun j hj h1 => by
    rw [is4Post, rotAt_is4PostButterflies fam o h1 hj, elt_map_neg, elt_take (sigma_lt hj), elt_drop, negate_val]
  have hE := energy_take_drop (2 ^ n) o
  rw [← energy_map_neg] at hE
  rw [← hE] at hlim ⊢
  obtain ⟨hovf, hsum⟩ := post_tame (ireflect_tame fam le_rfl) hlim
    (u' := is4FirstHalf n o (is4Post fam n o)) (v' := vals (is4SecondHalf n o (is4Post fam n o)))
    (by rw [elt_is4FirstHalf_zero, elt_map_neg, weight_neg, elt_take (Nat.two_pow_pos n)])
    (by rw [is4SecondHalf_eq, elt_s4SecondHalf_zero, weight_negate])
    (fun j hj h1 => by rw [elt_is4FirstHalf_sigma _ _ h1 hj, hrot j hj h1])
    (fun j hj h1 => by rw [is4SecondHalf_eq, elt_s4SecondHalf_sigma _ _ h1 hj, hrot j hj h1])
  refine ⟨Bool.eq_false_iff.2 (mt (anyRot_is4PostButterflies fam n o).1 ?_), hsum⟩
  rintro ⟨j, hj, h1, htrue⟩
  have hj' := hovf j hj h1
  rw [← hrot j hj h1, is4Post, rotAt_is4PostButterflies fam o h1 hj, htrue] at hj'
  exact absurd hj' (by decide)

theorem anySt_is4NegFirst_of_energy {n : Nat} {o : List Word} (hlim : energy (2 * 2 ^ n) o ≤ energyLimit) :
    anySt (is4NegFirst n o) = false := by
  refine Bool.eq_false_iff.2 (mt (anySt_is4NegFirst n o).1 ?_)
  rintro ⟨j, hj, -, htrue⟩
  have hle : weight (elt o (sigma n j)) ≤ energy (2 * 2 ^ n) o :=
    weight_le_energy o ((sigma_lt hj).trans_le (Nat.le_mul_of_pos_left _ two_pos))
  exact absurd (negate_ovf_of_weight (hle.trans hlim)) (by simp [htrue])

/-! ### The composers -/

theorem le_growth_mul {E : ℚ} (hE : 0 ≤ E) : E ≤ layerGrowth * E := le_mul_of_one_le_left hE one_le_layerGrowth

theorem layerGrowth_mul_le {E E' : ℚ} (h : E ≤ E') : layerGrowth * E ≤ layerGrowth * E' :=
  mul_le_mul_of_nonneg_left h (zero_le_one.trans one_le_layerGrowth)

/-- The energies after one layer and after the half-size composers stay within the limit that the last layer reaches. -/
theorem limit_of_layers {n : Nat} {E : ℚ} (hE : 0 ≤ E) (hlim : layerGrowth ^ (2 * (n + 1)) * E ≤ energyLimit) :
    layerGrowth * E ≤ energyLimit ∧ layerGrowth ^ (2 * n) * (layerGrowth * E) ≤ energyLimit ∧
      layerGrowth ^ (2 * n) * (layerGrowth * E) ≤ layerGrowth ^ (2 * (n + 1)) * E ∧
      layerGrowth * (layerGrowth ^ (2 * n) * (layerGrowth * E)) = layerGrowth ^ (2 * (n + 1)) * E := by
  have hlast : layerGrowth * (layerGrowth ^ (2 * n) * (layerGrowth * E)) = layerGrowth ^ (2 * (n + 1)) * E := by ring
  have hpow : 1 ≤ layerGrowth ^ (2 * n) := one_le_pow₀ one_le_layerGrowth
  have h1 : 0 ≤ layerGrowth * E := hE.trans (le_growth_mul hE)
  have h2 : layerGrowth * E ≤ layerGrowth ^ (2 * n) * (layerGrowth * E) := le_mul_of_one_le_left h1 hpow
  have h3 := le_growth_mul (h1.trans h2)
  rw [hlast] at h3
  exact ⟨(h2.trans h3).trans hlim, h3.trans hlim, h3, hlast⟩

/-- A composer that wraps nowhere and makes the energy grow by k factors at most, on inputs whose energy may grow so. -/
def Guarded (k N : Nat) (f : List Word → Composed) : Prop :=
  ∀ x, x.length = N → layerGrowth ^ k * energy N x ≤ energyLimit →
    (f x).ovf = false ∧ energy N (f x).vec ≤ layerGrowth ^ k * energy N x

/-- Two composers side by side. -/
theorem Guarded.pair {k N : Nat} {f f' : List Word → Composed} (hf : Guarded k N f) (hf' : Guarded k N f')
    {a b : List Word} (ha : a.length = N) (hb : b.length = N) {E : ℚ} (hab : energy N a + energy N b ≤ E)
    (hlim : layerGrowth ^ k * E ≤ energyLimit) :
    (f a).ovf = false ∧ (f' b).ovf = false ∧ energy N (f a).vec + energy N (f' b).vec ≤ layerGrowth ^ k * E := by
  have hpow : 0 ≤ layerGrowth ^ k := pow_nonneg (by norm_num [layerGrowth]) k
  have hsum : layerGrowth ^ k * energy N a + layerGrowth ^ k * energy N b ≤ layerGrowth ^ k * E := by
    rw [← mul_add]
    exact mul_le_mul_of_nonneg_left hab hpow
  have ha0 := mul_nonneg hpow (energy_nonneg N a)
  have hb0 := mul_nonneg hpow (energy_nonneg N b)
  obtain ⟨hfa, hEa⟩ := hf a ha (by linarith)
  obtain ⟨hfb, hEb⟩ := hf' b hb (by linarith)
  exact ⟨hfa, hfb, by linarith⟩

theorem le_of_energy_add_le {N : Nat} {x y : List Word} {E : ℚ} (h : energy N x + energy N y ≤ E) :
    energy N x ≤ E ∧ energy N y ≤ E :=
  ⟨by linarith [energy_nonneg N y], by linarith [energy_nonneg N x]⟩

theorem c2_succ_guarded {fam : Family} {n : Nat} (hc : Guarded (2 * n) (2 ^ n) (c2 fam n))
    (hs : Guarded (2 * n) (2 ^ n) (s4 fam n)) : Guarded (2 * (n + 1)) (2 ^ (n + 1)) (c2 fam (n + 1)) := by
  intro x _ hlim
  rw [Nat.pow_succ'] at hlim ⊢
  have hE := energy_nonneg (2 * 2 ^ n) x
  obtain ⟨h1, h2, h3, -⟩ := limit_of_layers hE hlim
  obtain ⟨hbf, hsum⟩ := c2Butterflies_tame fam ((le_growth_mul hE).trans h1)
  rw [← energy_reverse (x := qs _) (by simp)] at hsum
  obtain ⟨he, hf, hout⟩ := hc.pair hs (by simp) (by simp) hsum h2
  have ho := anySt_signAdjust_of_energy ((le_of_energy_add_le hout).2.trans h2)
  simp only [c2]
  rw [energy_append (by simp), energy_signAdjust]
  exact ⟨by simp only [hbf, he, hf, ho, Bool.or_false], hout.trans h3⟩

theorem ic2_succ_guarded {fam : Family} {n : Nat} (hc : Guarded (2 * n) (2 ^ n) (ic2 fam n))
    (hs : Guarded (2 * n) (2 ^ n) (is4 fam n)) : Guarded (2 * (n + 1)) (2 ^ (n + 1)) (ic2 fam (n + 1)) := by
  intro y hy hlim
  rw [Nat.pow_succ'] at hy hlim ⊢
  have hE := energy_nonneg (2 * 2 ^ n) y
  obtain ⟨h1, h2, -, h4⟩ := limit_of_layers hE hlim
  have hsum := (energy_take_drop (2 ^ n) y).trans_le (le_growth_mul hE)
  have hf := anySt_signAdjust_of_energy ((le_of_energy_add_le hsum).2.trans h1)
  rw [← energy_signAdjust n (y.drop (2 ^ n))] at hsum
  obtain ⟨hs', hjd, hsum'⟩ := hc.pair hs (by simp; omega) (by simp) hsum h2
  rw [← energy_reverse (x := (is4 _ _ _).vec) (by simp)] at hsum'
  obtain ⟨hbf, hout⟩ := ic2Butterflies_tame fam (hsum'.trans h2)
  simp only [ic2]
  rw [energy_append (by simp), energy_reverse (by simp), ← h4]
  exact ⟨by simp only [hf, hs', hjd, hbf, Bool.or_false], hout.trans (layerGrowth_mul_le hsum')⟩

theorem s4_succ_guarded {fam : Family} {n : Nat} (hc : Guarded (2 * n) (2 ^ n) (c2 fam n)) :
    Guarded (2 * (n + 1)) (2 ^ (n + 1)) (s4 fam (n + 1)) := by
  intro x _ hlim
  rw [Nat.pow_succ'] at hlim ⊢
  have hE := energy_nonneg (2 * 2 ^ n) x
  obtain ⟨h1, h2, -, h4⟩ := limit_of_layers hE hlim
  obtain ⟨hpre, hsum⟩ := s4PreRotations_tame fam ((le_growth_mul hE).trans h1)
  have hw := anySt_alternate_of_energy ((le_of_energy_add_le hsum).2.trans h1)
  rw [← energy_alternate n (qs _)] at hsum
  obtain ⟨hu, hv, hsum'⟩ := hc.pair hc (by simp) (by simp) hsum h2
  obtain ⟨hpost, hstage⟩ := s4Post_tame fam (hsum'.trans h2)
  have hout := hstage.trans (layerGrowth_mul_le hsum')
  rw [h4] at hout
  have hlo := anySt_s4FirstHalf_of_energy ((le_of_energy_add_le hout).1.trans hlim)
  have hhi := anySt_s4SecondHalf_of_energy ((le_of_energy_add_le hout).2.trans hlim)
  simp only [s4]
  rw [energy_append (by simp)]
  exact ⟨by simp only [hpre, hw, hu, hv, hpost, hlo, hhi, Bool.or_false], hout⟩

theorem is4_succ_guarded {fam : Family} {n : Nat} (hc : Guarded (2 * n) (2 ^ n) (ic2 fam n)) :
    Guarded (2 * (n + 1)) (2 ^ (n + 1)) (is4 fam (n + 1)) := by
  intro o _ hlim
  rw [Nat.pow_succ'] at hlim ⊢
  have hE := energy_nonneg (2 * 2 ^ n) o
  obtain ⟨h1, h2, -, h4⟩ := limit_of_layers hE hlim
  have hlim' := (le_growth_mul hE).trans h1
  have hp := anySt_is4NegFirst_of_energy hlim'
  obtain ⟨hpost, hsum⟩ := is4Post_tame fam hlim'
  have hv := anySt_is4SecondHalf_of_energy ((le_of_energy_add_le hsum).2.trans h1)
  obtain ⟨hu, hw, hsum'⟩ := hc.pair hc (by simp) (by simp [is4SecondHalf]) hsum h2
  have ha := anySt_alternate_of_energy ((le_of_energy_add_le hsum').2.trans h2)
  rw [← energy_alternate n (ic2 fam n (vals _)).vec] at hsum'
  obtain ⟨hpre, hout⟩ := is4PreRotations_tame fam (hsum'.trans h2)
  simp only [is4]
  rw [← is4Post, energy_append (by simp), energy_reverse (by simp), add_comm, ← h4]
  exact ⟨by simp only [hp, hpost, hv, hu, hw, ha, hpre, Bool.or_false],
    hout.trans (layerGrowth_mul_le hsum')⟩

theorem guarded_size_one {f : List Word → Composed} (hf : ∀ x, x.length = 1 → f x = ⟨x, false⟩) :
    Guarded (2 * 0) (2 ^ 0) f := by
  intro x hx _
  rw [hf x hx]
  exact ⟨rfl, by simp⟩

/-- At most two layers for each halving of the size (R153, R154). -/
theorem forward_guarded (fam : Family) (n : Nat) :
    Guarded (2 * n) (2 ^ n) (c2 fam n) ∧ Guarded (2 * n) (2 ^ n) (s4 fam n) := by
  induction n with
  | zero =>
    exact ⟨guarded_size_one fun _ hx => let ⟨hc, _⟩ := composers_size_one fam hx; hc,
      guarded_size_one fun _ hx => let ⟨_, hs, _⟩ := composers_size_one fam hx; hs⟩
  | succ n ih => exact ⟨c2_succ_guarded ih.1 ih.2, s4_succ_guarded ih.1⟩

theorem inverse_guarded (fam : Family) (n : Nat) :
    Guarded (2 * n) (2 ^ n) (ic2 fam n) ∧ Guarded (2 * n) (2 ^ n) (is4 fam n) := by
  induction n with
  | zero =>
    exact ⟨guarded_size_one fun _ hx => let ⟨_, _, hic, _⟩ := composers_size_one fam hx; hic,
      guarded_size_one fun _ hx => let ⟨_, _, _, his⟩ := composers_size_one fam hx; his⟩
  | succ n ih => exact ⟨ic2_succ_guarded ih.1 ih.2, is4_succ_guarded ih.1⟩

/-- 64 words below 2^27 have an energy near 2^60, and twelve layers make less than three times that of it (R181). -/
theorem limit_of_lt {n : Nat} (hn : n ≤ 6) {x : List Word} (hx : x.length = 2 ^ n)
    (h : ∀ w ∈ x, |w.toInt| < 134217728) :
    layerGrowth ^ (2 * n) * energy (2 ^ n) x ≤ energyLimit := by
  have hweight : ∀ i ∈ range (2 ^ n), weight (elt x i) ≤ 2 ^ 54 + 4096 := fun i hi => by
    have hi' : i < x.length := hx ▸ Finset.mem_range.1 hi
    have helt : elt x i = x[i] := by simp [elt, hi']
    obtain ⟨hlo, hhi⟩ := abs_lt.1 (h _ (List.getElem_mem hi'))
    qify at hlo hhi
    rw [helt, weight]
    nlinarith
  have hsize : ((2 ^ n : Nat) : ℚ) ≤ 2 ^ 6 := by exact_mod_cast Nat.pow_le_pow_right two_pos hn
  have hsum := Finset.sum_le_card_nsmul _ _ _ hweight
  rw [Finset.card_range, nsmul_eq_mul] at hsum
  have henergy : energy (2 ^ n) x ≤ 2 ^ 6 * (2 ^ 54 + 4096) :=
    hsum.trans (mul_le_mul_of_nonneg_right hsize (by norm_num))
  calc layerGrowth ^ (2 * n) * energy (2 ^ n) x
      ≤ layerGrowth ^ 12 * (2 ^ 6 * (2 ^ 54 + 4096)) :=
        mul_le_mul (pow_le_pow_right₀ one_le_layerGrowth (by omega)) henergy (energy_nonneg _ _)
          (by norm_num [layerGrowth])
    _ ≤ energyLimit := by norm_num [layerGrowth, energyLimit]

end Energy

/-! ## The obligations -/

/-- Settles O42: the steps undone in reverse order, and a permutation that lists every slot once. -/
theorem preciseComposersRoundTrip : Obligations.PreciseComposersRoundTrip :=
  ⟨fun n x hx => ⟨(ic2_c2_is4_s4 n x hx).1, (ic2_c2_is4_s4 n x hx).2, c2_ic2_s4_is4 n hx⟩,
    fun sz raw _ _ hx => ⟨idctVec_fdctVec sz raw hx, idstVec_fdstVec sz raw hx⟩⟩

/-- Settles O43: the inverse command gathers what the forward one scattered. -/
theorem preciseCommandsRoundTrip : Obligations.PreciseCommandsRoundTrip := by
  intro s t u sz raw fwd inv dst stride hsz hpair hrange ht hu i hi hlast
  rcases hpair with ⟨rfl, rfl⟩ | ⟨rfl, rfl⟩
  · cases ht
    cases hu
    exact transfer_roundTrip hsz (length_forwardVec (length_permC2 _) (length_c2 _ _) raw)
      (fun _ => idctVec_fdctVec sz raw) hrange hi hlast
  · cases ht
    cases hu
    exact transfer_roundTrip hsz (length_forwardVec (length_permS4 _) (length_s4 _ _) raw)
      (fun _ => idstVec_fdstVec sz raw) hrange hi hlast

/-- Settles O44: zeros stay zeros through every step. -/
theorem zeroVectorIsPreserved : Obligations.ZeroVectorIsPreserved := fun fam n =>
  ⟨(c2_s4_zero fam n).1, (c2_s4_zero fam n).2, (ic2_is4_zero fam n).1, (ic2_is4_zero fam n).2⟩

/-- Settles O45: |c|·N is at most 2^21 at every level, and slot σ(0) = 0 alone is not zero. -/
theorem constantVectorIsIsolated : Obligations.ConstantVectorIsIsolated := by
  intro sz fam c hsz hlo hhi
  have hlevel : level sz ≤ 6 := by
    rw [sizeOk_iff] at hsz
    rw [level]
    omega
  have hpow : (2 : Int) ^ level sz ≤ 2 ^ 6 := pow_le_pow_right₀ (by norm_num) hlevel
  have hc : |c.toInt| * 2 ^ level sz ≤ 32768 * 2 ^ 6 :=
    mul_le_mul (abs_le.2 ⟨hlo, by omega⟩) hpow (by positivity) (by norm_num)
  obtain ⟨hovf, hzero⟩ := c2_replicate_isolated fam (level sz) hc
  refine ⟨hovf, by simp [fdctVec, forwardVec, size], fun i hi hi0 => ?_⟩
  rw [fdctVec, forwardVec, if_neg Bool.false_ne_true, permFwd, elt_map_range (by simpa)]
  exact hzero _ (sigma_lt hi) (sigma_ne_zero (by omega) hi)

/-- Settles O46: the energy stays within the limit through every layer. -/
theorem guardBitsSuffice : Obligations.GuardBitsSuffice := by
  intro fam n x hn hx h
  have hlim := limit_of_lt hn hx h
  obtain ⟨hc, hs⟩ := forward_guarded fam n
  obtain ⟨hic, his⟩ := inverse_guarded fam n
  exact ⟨(hc x hx hlim).1, (hs x hx hlim).1, (hic x hx hlim).1, (his x hx hlim).1⟩

end Sys2Proof.Machine
end

section
/-! PROOFS. The permutation engine (42_permutation.md): the tables half by half, a table as a bijection and what it makes of
the two permutations, and a permutation command beside a RAW transform, through memory; the five statements settled here (O47
to O51). -/

namespace Sys2Proof.Machine

/-! ## Entries of a table (R191) -/

theorem nth_map {t : List Nat} {i : Nat} (f : Nat → Nat) (h : i < t.length) : nth (t.map f) i = f (nth t i) := by
  simp [nth, h]

theorem nth_append_left {t u : List Nat} {i : Nat} (h : i < t.length) : nth (t ++ u) i = nth t i := by
  simp [nth, List.getElem?_append_left h]

theorem nth_append_length_add {t u : List Nat} {N : Nat} (ht : t.length = N) (i : Nat) : nth (t ++ u) (N + i) = nth u i := by
  simp [nth, List.getElem?_append_right, ← ht]

section Halves
variable {n k : Nat} (h : k < 2 ^ n)
include h

theorem nth_permC2_succ_left : nth (permC2 (n + 1)) k = 2 * nth (permC2 n) k := by
  rw [permC2, nth_append_left (by simpa), nth_map _ (by simpa)]

theorem nth_permC2_succ_right : nth (permC2 (n + 1)) (2 ^ n + k) = 2 * nth (permS4 n) k + 1 := by
  rw [permC2, nth_append_length_add (by simp), nth_map _ (by simpa)]

theorem nth_permS4_succ_left :
    nth (permS4 (n + 1)) k = if nth (permC2 n) k = 0 then 0 else 2 * nth (permC2 n) k - 1 := by
  rw [permS4, nth_append_left (by simpa), nth_map _ (by simpa)]

theorem nth_permS4_succ_right :
    nth (permS4 (n + 1)) (2 ^ n + k) =
      if nth (permC2 n) k = 0 then 2 ^ (n + 1) - 1 else 2 * (2 ^ n - nth (permC2 n) k) := by
  rw [permS4, nth_append_length_add (by simp), nth_map _ (by simpa)]

end Halves

theorem nth_permS4_succ_zero (n : Nat) : nth (permS4 (n + 1)) 0 = 0 := by
  rw [nth_permS4_succ_left (Nat.two_pow_pos n), nth_permC2_zero, if_pos rfl]

theorem nth_permS4_succ_half (n : Nat) : nth (permS4 (n + 1)) (2 ^ n) = 2 ^ (n + 1) - 1 := by
  have h := nth_permS4_succ_right (Nat.two_pow_pos n)
  rwa [nth_permC2_zero, if_pos rfl, Nat.add_zero] at h

/-- permC2's halves are the even and the odd numbers (R197). -/
theorem permC2_succ_halves {n k : Nat} (h : k < 2 ^ n) :
    nth (permC2 (n + 1)) k % 2 = 0 ∧ nth (permC2 (n + 1)) (2 ^ n + k) % 2 = 1 := by
  rw [nth_permC2_succ_left h, nth_permC2_succ_right h]
  omega

/-- Past the first slot of each, permS4's halves are odd numbers below N − 1 and even numbers from 2 (R197). -/
theorem permS4_succ_halves {n k : Nat} (h : k < 2 ^ n) (h0 : k ≠ 0) :
    nth (permS4 (n + 1)) k % 2 = 1 ∧ nth (permS4 (n + 1)) k < 2 ^ (n + 1) - 1 ∧
      nth (permS4 (n + 1)) (2 ^ n + k) % 2 = 0 ∧ 2 ≤ nth (permS4 (n + 1)) (2 ^ n + k) := by
  have hlo := one_le_nth_permC2 h0 h
  have hhi := nth_permC2_lt h
  rw [nth_permS4_succ_left h, nth_permS4_succ_right h, if_neg (by omega), if_neg (by omega), Nat.pow_succ']
  omega

theorem nth_permTable_zero (tbl : Table) (n : Nat) : nth (permTable tbl n) 0 = 0 := by
  cases tbl with
  | dct => exact nth_permC2_zero n
  | dst =>
    cases n with
    | zero => rfl
    | succ n => exact nth_permS4_succ_zero n

/-! ## Tables as bijections, and the two permutations (R195 to R197) -/

theorem permTable_perm_range (tbl : Table) (n : Nat) : (permTable tbl n).Perm (List.range (2 ^ n)) := by
  cases tbl with
  | dct => exact permC2_perm_range n
  | dst => exact permS4_perm_range n

section Bijection
variable {t : List Nat} {N : Nat} (ht : t.Perm (List.range N))
include ht

theorem length_of_perm_range : t.length = N := by rw [ht.length_eq, List.length_range]

theorem nth_lt_of_perm_range {k : Nat} (h : k < N) : nth t k < N := by
  rw [nth_eq_getElem (by rwa [length_of_perm_range ht]), ← List.mem_range, ← ht.mem_iff]
  exact List.getElem_mem _

theorem slotOf_lt_of_perm_range {f : Nat} (h : f < N) : slotOf t f < N := by
  rw [← length_of_perm_range ht]
  exact List.idxOf_lt_length_of_mem (ht.mem_iff.2 (List.mem_range.2 h))

theorem nth_slotOf {f : Nat} (h : f < N) : nth t (slotOf t f) = f := by
  rw [nth_eq_getElem (by rw [length_of_perm_range ht]; exact slotOf_lt_of_perm_range ht h)]
  exact List.getElem_idxOf _

theorem slotOf_nth {k : Nat} (h : k < N) : slotOf t (nth t k) = k := by
  rw [nth_eq_getElem (by rwa [length_of_perm_range ht])]
  exact (ht.nodup_iff.2 List.nodup_range).idxOf_getElem k _

theorem elt_permFwd {f : Nat} (v : List Word) (h : f < N) : elt (permFwd t v) f = elt v (slotOf t f) := by
  rw [permFwd, elt_map_range (by rwa [length_of_perm_range ht])]

/-- PermFwd puts the word of slot k at t[k] (R195). -/
theorem elt_permFwd_nth {k : Nat} (v : List Word) (h : k < N) : elt (permFwd t v) (nth t k) = elt v k := by
  rw [elt_permFwd ht v (nth_lt_of_perm_range ht h), slotOf_nth ht h]

/-- PermInv takes the word of slot k from t[k] (R196). -/
theorem elt_permInv {k : Nat} (y : List Word) (h : k < N) : elt (permInv t y) k = elt y (nth t k) := by
  have hk : k < t.length := by rwa [length_of_perm_range ht]
  rw [nth_eq_getElem hk]
  simp [elt, permInv, hk]

/-- A table that lists 0 .. N − 1 in some order takes every word back to its frequency (R196). -/
theorem permFwd_permInv {y : List Word} (hy : y.length = N) : permFwd t (permInv t y) = y := by
  have hlen := length_of_perm_range ht
  refine vec_ext (by simp [hlen, hy]) fun f hf => ?_
  have hf' : f < N := by simpa [hlen] using hf
  rw [elt_permFwd ht _ hf', elt_permInv ht _ (slotOf_lt_of_perm_range ht hf'), nth_slotOf ht hf']

end Bijection

/-! ## One command after another, through memory (R199, R236) -/

theorem State.gather_eq_inv {m : Mode} (h : m ≠ .fwd) (s : State) (n : Nat) : s.gather m n = s.gather .inv n := by
  cases m with
  | fwd => exact absurd rfl h
  | inv => rfl
  | perm => rfl

theorem State.scatter_eq_fwd {m : Mode} (h : m ≠ .inv) (s : State) (n : Nat) (y : List Word) :
    s.scatter m n y = s.scatter .fwd n y := by
  cases m with
  | fwd => rfl
  | inv => exact absurd rfl h
  | perm => rfl

/-- No later element of a contiguous scatter has the address of an earlier one. -/
theorem State.scatterAddr_ne_of_lt {m : Mode} (h : m ≠ .inv) (s : State) {i j : Nat} (hij : i < j) :
    s.scatterAddr m j ≠ s.scatterAddr m i := by
  cases m with
  | fwd => simp only [State.scatterAddr]; omega
  | inv => exact absurd rfl h
  | perm => simp only [State.scatterAddr]; omega

section Kept
variable (m : Mode) (sz : BitVec 3) (f : List Word → Composed) (s : State)

/-- However it ends, a transfer keeps NW, STRIDE and the free draws (R230, R236). -/
theorem transfer_keeps :
    (transfer m sz f s).nw = s.nw ∧ (transfer m sz f s).stride = s.stride ∧ (transfer m sz f s).epoch = s.epoch := by
  unfold transfer
  split
  · split <;> exact ⟨rfl, rfl, rfl⟩
  · exact ⟨rfl, rfl, rfl⟩

theorem transfer_nw : (transfer m sz f s).nw = s.nw := (transfer_keeps m sz f s).1

theorem transfer_stride : (transfer m sz f s).stride = s.stride := (transfer_keeps m sz f s).2.1

theorem transfer_epoch : (transfer m sz f s).epoch = s.epoch := (transfer_keeps m sz f s).2.2

end Kept

section Transfers
variable {m : Mode} {sz : BitVec 3} {g : List Word → Composed} (hsz : sizeOk sz = true)
  (hg : ∀ x, (g x).vec.length = size sz)
include hsz hg

/-- A word a transfer writes is the element of its output whose address no later element has (R236, R245). -/
theorem readWord_transfer {s : State} (hr : s.inRange m (size sz) = true) {i : Nat} (hi : i < size sz)
    (hlast : ∀ j < size sz, i < j → s.scatterAddr m j ≠ s.scatterAddr m i) :
    (transfer m sz g s).readWord (s.scatterAddr m i) = elt (g (s.gather m (size sz))).vec i := by
  rw [transfer_ok g hsz hr, ← s.readWord_scatter m _ _ (hg _) hi hlast]
  exact State.readWord_congr rfl rfl _

/-- A contiguous write of `f` followed by a contiguous read of its output for `g` writes what `g` after `f` computes. -/
theorem readWord_transfer_transfer {m₁ : Mode} {f : List Word → Composed} (h₁ : m₁ ≠ .inv) (h : m ≠ .fwd)
    (hf : ∀ x, (f x).vec.length = size sz) {s t : State} (hsrc : t.src = s.dst)
    (hdmem : t.dmem = (transfer m₁ sz f s).dmem) (hepoch : t.epoch = (transfer m₁ sz f s).epoch)
    (hs : s.inRange m₁ (size sz) = true) (ht : t.inRange m (size sz) = true) {i : Nat} (hi : i < size sz)
    (hlast : ∀ j < size sz, i < j → t.scatterAddr m j ≠ t.scatterAddr m i) :
    (transfer m sz g t).readWord (t.scatterAddr m i) = elt (g (f (s.gather m₁ (size sz))).vec).vec i := by
  rw [transfer_ok f hsz hs, State.scatter_eq_fwd h₁] at hdmem
  rw [transfer_epoch] at hepoch
  have hread : t.gather m (size sz) = (f (s.gather m₁ (size sz))).vec := by
    rw [State.gather_eq_inv h, State.gather_scatter_fwd (hf _) hsrc hdmem hepoch]
  rw [readWord_transfer hsz hg ht hi hlast, hread]

end Transfers

section Raw
variable (sz : BitVec 3) (fam : Family) (x : List Word)

theorem permfVec_fdctVec_raw : (permfVec sz .dct (fdctVec sz fam true x).vec).vec = (fdctVec sz fam false x).vec := rfl

theorem permfVec_fdstVec_raw : (permfVec sz .dst (fdstVec sz fam true x).vec).vec = (fdstVec sz fam false x).vec := rfl

theorem idctVec_raw_permiVec : idctVec sz fam true (permiVec sz .dct x).vec = idctVec sz fam false x := rfl

theorem idstVec_raw_permiVec : idstVec sz fam true (permiVec sz .dst x).vec = idstVec sz fam false x := rfl

end Raw

/-- A RAW forward transfer followed by PERMF writes the words of the plain transfer (R199). -/
theorem transfer_permf {sz : BitVec 3} {tbl : Table} {raw plain : List Word → Composed} (hsz : sizeOk sz = true)
    (hraw : ∀ x, (raw x).vec.length = size sz)
    (hplain : ∀ x, (permfVec sz tbl (raw x).vec).vec = (plain x).vec) {s : State} {dst : Half}
    (hrange : ∀ i < size sz, s.src.toNat + i * s.stride.toNat < s.nw ∧ s.dst.toNat + i < s.nw ∧ dst.toNat + i < s.nw)
    {i : Nat} (hi : i < size sz) :
    (transfer .perm sz (permfVec sz tbl) { transfer .fwd sz raw s with src := s.dst, dst := dst }).readWord
      (dst.toNat + i) = (transfer .fwd sz plain s).readWord (s.dst.toNat + i) := by
  have hpermf : ∀ x, (permfVec sz tbl x).vec.length = size sz := fun x => by simp [permfVec, size]
  have hfwd : s.inRange .fwd (size sz) = true :=
    (s.inRange_iff .fwd _).2 fun j hj => ⟨(hrange j hj).1, (hrange j hj).2.1⟩
  set t : State := { transfer .fwd sz raw s with src := s.dst, dst := dst }
  have hnw : t.nw = s.nw := transfer_nw .fwd sz raw s
  have hperm : t.inRange .perm (size sz) = true :=
    (t.inRange_iff .perm _).2 fun j hj => hnw.symm ▸ (hrange j hj).2
  calc _ = elt (permfVec sz tbl (raw (s.gather .fwd (size sz))).vec).vec i :=
        readWord_transfer_transfer hsz hpermf (t := t) (by decide) (by decide) hraw rfl rfl rfl hfwd hperm hi fun _ _ =>
          State.scatterAddr_ne_of_lt (by decide) _
    _ = elt (plain (s.gather .fwd (size sz))).vec i := by rw [hplain]
    _ = _ := (readWord_transfer hsz (fun x => by rw [← hplain, hpermf]) hfwd hi fun _ _ =>
          State.scatterAddr_ne_of_lt (by decide) _).symm

/-- PERMI followed by a RAW inverse transfer writes the words of the plain transfer (R199, R245). -/
theorem transfer_permi {sz : BitVec 3} {tbl : Table} {raw plain : List Word → Composed} (hsz : sizeOk sz = true)
    (hraw : ∀ x, (raw x).vec.length = size sz) (hplain : ∀ x, raw (permiVec sz tbl x).vec = plain x) {s : State}
    {dst : Half} (hrange : ∀ i < size sz, s.src.toNat + i < s.nw ∧ s.dst.toNat + i < s.nw ∧
      dst.toNat + i * s.stride.toNat < s.nw) {i : Nat} (hi : i < size sz)
    (hlast : s.stride ≠ 0#16 ∨ i = size sz - 1) :
    (transfer .inv sz raw { transfer .perm sz (permiVec sz tbl) s with src := s.dst, dst := dst }).readWord
      (dst.toNat + i * s.stride.toNat) =
        (transfer .inv sz plain { s with dst := dst }).readWord (dst.toNat + i * s.stride.toNat) := by
  have hpermi : ∀ x, (permiVec sz tbl x).vec.length = size sz := fun x => by simp [permiVec, size]
  have hperm : s.inRange .perm (size sz) = true :=
    (s.inRange_iff .perm _).2 fun j hj => ⟨(hrange j hj).1, (hrange j hj).2.1⟩
  have hplainRange : State.inRange { s with dst := dst } .inv (size sz) = true :=
    (State.inRange_iff _ .inv _).2 fun j hj => ⟨(hrange j hj).1, (hrange j hj).2.2⟩
  set t : State := { transfer .perm sz (permiVec sz tbl) s with src := s.dst, dst := dst }
  have hnw : t.nw = s.nw := transfer_nw .perm sz (permiVec sz tbl) s
  have hstride : t.stride = s.stride := transfer_stride .perm sz (permiVec sz tbl) s
  have hinv : t.inRange .inv (size sz) = true :=
    (t.inRange_iff .inv _).2 fun j hj => by
      rw [hnw, State.scatterAddr, hstride]
      exact (hrange j hj).2
  calc _ = (transfer .inv sz raw t).readWord (t.scatterAddr .inv i) := by rw [State.scatterAddr, hstride]
    _ = elt (raw (permiVec sz tbl (s.gather .perm (size sz))).vec).vec i :=
        readWord_transfer_transfer hsz hraw (t := t) (by decide) (by decide) hpermi rfl rfl rfl hperm
          hinv hi fun _ => State.scatterAddr_inv_ne_of_lt (hstride ▸ hlast)
    _ = elt (plain (s.gather .inv (size sz))).vec i := by rw [hplain, State.gather_eq_inv (by decide)]
    _ = _ := (readWord_transfer hsz (fun x => by rw [← hplain, hraw]) hplainRange hi fun _ =>
          State.scatterAddr_inv_ne_of_lt hlast).symm

/-! ## The obligations -/

/-- Settles O47: slot 0 holds 0, the other slots of the first half odd numbers, and the second half its only odd number,
N − 1, in its first slot. -/
theorem oddSlotsAreTheFirstHalf : Obligations.OddSlotsAreTheFirstHalf := by
  refine ⟨fun n i hi => ?_, rfl⟩
  have hN : 2 ^ (n + 1) = 2 * 2 ^ n := Nat.pow_succ'
  have hpos := Nat.two_pow_pos n
  rcases Nat.lt_or_ge i (2 ^ n) with hlt | hge
  · by_cases h0 : i = 0
    · rw [h0, nth_permS4_succ_zero]
      omega
    · obtain ⟨hodd, -⟩ := permS4_succ_halves hlt h0
      omega
  · obtain ⟨k, rfl⟩ := Nat.exists_eq_add_of_le hge
    by_cases h0 : k = 0
    · rw [h0, Nat.add_zero (2 ^ n), nth_permS4_succ_half]
      omega
    · have hk : k < 2 ^ n := by omega
      obtain ⟨-, -, heven, -⟩ := permS4_succ_halves hk h0
      omega

/-- Settles O48: the listed tables by computation, the rest half by half. -/
theorem tablesAreBijections : Obligations.TablesAreBijections := by
  iterate 14 refine ⟨⟨rfl, rfl⟩, ?_⟩
  intro tbl n
  have ht := permTable_perm_range tbl n
  exact ⟨nth_permTable_zero tbl n, sigma_zero n, ht, fun f => nth_slotOf ht, fun k => slotOf_nth ht,
    fun k => permC2_succ_halves, fun k => permS4_succ_halves, nth_permS4_succ_zero n, nth_permS4_succ_half n⟩

/-- Settles O49: PermFwd reads through slotOf, PermInv through the table, and these undo each other on 0 .. N − 1. -/
theorem permutationsUndoEachOther : Obligations.PermutationsUndoEachOther := by
  refine ⟨fun a b c d => ⟨rfl, rfl⟩, fun tbl n x hx => ?_⟩
  have ht := permTable_perm_range tbl n
  have hlen := length_permTable tbl n
  exact ⟨fun k hk => ⟨elt_permFwd_nth ht x hk, elt_permInv ht x hk⟩,
    permInv_permFwd (by rwa [hlen]) (hx.trans hlen.symm), permFwd_permInv ht hx⟩

/-- Settles O50: PERMF gathers what the RAW transform scattered, and PermFwd of that is what the plain transform scatters. -/
theorem rawThenPermfIsTheTransform : Obligations.RawThenPermfIsTheTransform := by
  intro s t u v sz fam tbl dst plain rawed hsz hpair hrange ht hu hv i hi
  rcases hpair with ⟨rfl, rfl, rfl⟩ | ⟨rfl, rfl, rfl⟩
  · cases ht
    cases hu
    cases hv
    exact transfer_permf hsz (length_forwardVec (length_permC2 _) (length_c2 _ _) true)
      (permfVec_fdctVec_raw sz fam) hrange hi
  · cases ht
    cases hu
    cases hv
    exact transfer_permf hsz (length_forwardVec (length_permS4 _) (length_s4 _ _) true)
      (permfVec_fdstVec_raw sz fam) hrange hi

/-- Settles O51: the RAW inverse gathers what PERMI scattered, the slot order the plain inverse computes from. -/
theorem permiThenRawIsTheInverse : Obligations.PermiThenRawIsTheInverse := by
  intro s t u v sz fam tbl dst plain rawed hsz hpair hrange ht hu hv i hi hlast
  rcases hpair with ⟨rfl, rfl, rfl⟩ | ⟨rfl, rfl, rfl⟩
  · cases ht
    cases hu
    cases hv
    exact transfer_permi (raw := idctVec sz fam true) hsz (fun _ => length_ic2 _ _ _) (idctVec_raw_permiVec sz fam)
      hrange hi hlast
  · cases ht
    cases hu
    cases hv
    exact transfer_permi (raw := idstVec sz fam true) hsz (fun _ => length_is4 _ _ _) (idstVec_raw_permiVec sz fam)
      hrange hi hlast

end Sys2Proof.Machine
end

section
/-! PROOFS. The commands (44_commands.md): acceptance followed by completion, NOP and the setters, what a transfer leaves in
memory and in the registers, and the frames; the twelve statements settled here (O6, O10, O19 to O25, O27 to O29). -/

namespace Sys2Proof.Machine

/-! ## Acceptance and completion (R41, R230) -/

theorem engineStep_of_decode {c : Word} {i : Instr} (h : decode c = .command i) (s : State) :
    engineStep c s = exec i s := by
  rw [engineStep, h]

/-- On the engine's turn a pending command is executed (R230). -/
theorem step_of_decode {s : State} {c : Word} {i : Instr} (hp : s.pending = some c) (ht : s.engineTurn)
    (h : decode c = .command i) : step s = exec i s :=
  (step_engine hp ht).trans (engineStep_of_decode h s)

/-- An idle block accepts the word written to CMD (R41). -/
theorem step_writeCmd_of_idle {s : State} {c : Word} {rest : List Input} (hi : s.inputs = .write .bits32 0x10 c :: rest)
    (hp : s.pending = none) : step s = .next ((s.takeInput rest).accept c) := by
  rw [step_writeRegister hi (.inl hp) rfl (.inl (by decide)), State.writeRegister_cmd_of_idle (s := s.takeInput rest) hp]

/-! ## NOP and the setters (R232 to R235) -/

/-- The normal completion with the indicator clear leaves the OVF flag (R230, R286). -/
theorem State.completeOk_false (s : State) :
    s.completeOk false =
      { s with ovf := false, done := true, cmdcnt := s.cmdcnt + 1#32, pending := none, delay := 0 } := by
  simp only [State.completeOk, State.finish, Bool.or_false]

/-- A command that transfers nothing completes normally, having written the one register its setter names, if any. -/
theorem exec_of_transferShape_none {s t : State} {i : Instr} (hi : i.transferShape = none) (h : exec i s = .next t) :
    ∃ src dst stride, t = State.completeOk { s with src, dst, stride } false ∧
      ((∀ imm, i ≠ .setsrc imm) → src = s.src) ∧ ((∀ imm, i ≠ .setdst imm) → dst = s.dst) ∧
      ((∀ imm, i ≠ .setstr imm) → stride = s.stride) := by
  cases i with
  | nop => cases h; exact ⟨_, _, _, rfl, fun _ => rfl, fun _ => rfl, fun _ => rfl⟩
  | setsrc imm => cases h; exact ⟨imm, _, _, rfl, fun hne => absurd rfl (hne imm), fun _ => rfl, fun _ => rfl⟩
  | setdst imm => cases h; exact ⟨_, imm, _, rfl, fun _ => rfl, fun hne => absurd rfl (hne imm), fun _ => rfl⟩
  | setstr imm => cases h; exact ⟨_, _, imm, rfl, fun _ => rfl, fun _ => rfl, fun hne => absurd rfl (hne imm)⟩
  | fdct | idct | fdst | idst | fidt | iidt | permf | permi => cases hi

/-! ## The eight transfer commands as transfers (R236 to R244) -/

theorem length_inverseVec {g : List Word → Composed} {N : Nat} (hg : ∀ x, (g x).vec.length = N) (t : List Nat)
    (raw : Bool) (x : List Word) : (inverseVec g t raw x).vec.length = N := hg _

theorem length_permfVec (sz : BitVec 3) (tbl : Table) (x : List Word) : (permfVec sz tbl x).vec.length = size sz := by
  simp [permfVec, size]

theorem length_permiVec (sz : BitVec 3) (tbl : Table) (x : List Word) : (permiVec sz tbl x).vec.length = size sz := by
  simp [permiVec, size]

/-- A command with an access pattern is the transfer of some function on vectors of N words, well-formed as its size is. -/
theorem exec_eq_transfer {i : Instr} {m : Mode} {sz : BitVec 3} (h : i.transferShape = some (m, sz)) :
    ∃ f, (∀ x, x.length = size sz → (f x).vec.length = size sz) ∧ i.check = sizeOk sz ∧
      ∀ s, exec i s = .next (transfer m sz f s) := by
  cases i with
  | nop | setsrc | setdst | setstr => cases h
  | fdct sz fam raw =>
    cases h
    exact ⟨_, fun x _ => length_forwardVec (length_permC2 _) (length_c2 fam _) raw x, rfl, fun _ => rfl⟩
  | idct sz fam raw => cases h; exact ⟨_, fun x _ => length_inverseVec (length_ic2 fam _) _ raw x, rfl, fun _ => rfl⟩
  | fdst sz fam raw =>
    cases h
    exact ⟨_, fun x _ => length_forwardVec (length_permS4 _) (length_s4 fam _) raw x, rfl, fun _ => rfl⟩
  | idst sz fam raw => cases h; exact ⟨_, fun x _ => length_inverseVec (length_is4 fam _) _ raw x, rfl, fun _ => rfl⟩
  | fidt sz => cases h; exact ⟨copyVec, fun _ hx => hx, rfl, fun _ => rfl⟩
  | iidt sz => cases h; exact ⟨copyVec, fun _ hx => hx, rfl, fun _ => rfl⟩
  | permf sz tbl => cases h; exact ⟨permfVec sz tbl, fun x _ => length_permfVec sz tbl x, rfl, fun _ => rfl⟩
  | permi sz tbl => cases h; exact ⟨permiVec sz tbl, fun x _ => length_permiVec sz tbl x, rfl, fun _ => rfl⟩

/-- A transfer ends with an error, its size reserved or an address out of range, or with its output scattered (R230,
R236). -/
theorem transfer_cases (m : Mode) (sz : BitVec 3) (f : List Word → Composed) (s : State) :
    (∃ code, transfer m sz f s = s.completeErr code ∧ (sizeOk sz = true → s.inRange m (size sz) = false)) ∨
    (s.inRange m (size sz) = true ∧ transfer m sz f s =
      (s.scatter m (size sz) (f (s.gather m (size sz))).vec).completeOk (f (s.gather m (size sz))).ovf) := by
  cases hsz : sizeOk sz with
  | false => exact .inl ⟨_, transfer_illegal f hsz, nofun⟩
  | true =>
    cases hr : s.inRange m (size sz) with
    | false => exact .inl ⟨_, transfer_range f hsz hr, fun _ => rfl⟩
    | true => exact .inr ⟨rfl, transfer_ok f hsz hr⟩

theorem State.inRange_eq_false_iff (s : State) (m : Mode) (n : Nat) :
    s.inRange m n = false ↔ ∃ k < n, s.nw ≤ s.gatherAddr m k ∨ s.nw ≤ s.scatterAddr m k := by
  rw [← Bool.not_eq_true, State.inRange_iff]
  push Not
  simp only [imp_iff_not_or, not_lt]

/-- The words put into the vector buffer reach its first elements only (R47). -/
theorem getElem_setVector_of_length_le (v : Vector Word 64) {y : List Word} {k : Nat} (h : k < 64) (hy : y.length ≤ k) :
    (setVector v y)[k] = v[k] := by
  simp [setVector, hy]

theorem one_lt_size (sz : BitVec 3) : 1 < size sz := Nat.one_lt_two_pow (by simp [level])

/-- From the last word of DMEM a contiguous gather leaves it with its second element (R236). -/
theorem State.inRange_last_word {s : State} {m : Mode} (hm : m = .inv ∨ m = .perm) (hsrc : s.src.toNat = s.nw - 1)
    (sz : BitVec 3) : s.inRange m (size sz) = false := by
  have haddr : s.gatherAddr m 1 = s.src.toNat + 1 := by rcases hm with rfl | rfl <;> rfl
  exact (s.inRange_eq_false_iff m _).2 ⟨1, one_lt_size sz, .inl (by rw [haddr, hsrc]; omega)⟩

/-! ## What a transfer leaves (R230, R236) -/

/-- `t` is `s` after the transfer of N words that computes `y`: each word of `y` whose address no later one has stands at its
address, and the command has completed normally (R230, R236, R245). -/
structure State.TransferredTo (s t : State) (m : Mode) (n : Nat) (y : Composed) : Prop where
  words : ∀ i < n, (∀ j < n, i < j → s.scatterAddr m j ≠ s.scatterAddr m i) → t.readWord (s.scatterAddr m i) = elt y.vec i
  completed : s.CompletedTo t y.ovf
  addressRegs : s.AddressRegsKept t

theorem transfer_transferredTo {m : Mode} {sz : BitVec 3} {f : List Word → Composed} {s : State} (hsz : sizeOk sz = true)
    (hf : (f (s.gather m (size sz))).vec.length = size sz)
    (hr : ∀ i < size sz, s.gatherAddr m i < s.nw ∧ s.scatterAddr m i < s.nw) :
    s.TransferredTo (transfer m sz f s) m (size sz) (f (s.gather m (size sz))) := by
  rw [transfer_ok f hsz ((s.inRange_iff m _).2 hr)]
  refine ⟨fun i hi hlast => ?_, ⟨rfl, rfl, rfl, rfl, rfl, ⟨rfl, rfl⟩, rfl, rfl⟩, rfl, rfl, rfl⟩
  rw [← s.readWord_scatter m _ _ hf hi hlast]
  exact State.readWord_congr rfl rfl _

theorem State.gather_eq_map (s : State) (m : Mode) (n : Nat) :
    s.gather m n = (List.range n).map (fun i => s.readWord (s.gatherAddr m i)) := List.map_map

/-- The permutation of a forward transform moves words and leaves the indicator (R199). -/
theorem forwardVec_eq (f : List Word → Composed) (t : List Nat) (raw : Bool) (x : List Word) :
    forwardVec f t raw x = ⟨if raw then (f x).vec else permFwd t (f x).vec, (f x).ovf⟩ := by
  cases raw <;> rfl

section Transforms
variable {sz : BitVec 3} {f : List Word → Composed} {s : State} (hsz : sizeOk sz = true)
  (hf : ∀ x, (f x).vec.length = size sz) {t : List Nat}
include hsz hf

/-- A forward transform: a strided read, the composer, PermFwd unless RAW, a contiguous write (R237, R239). -/
theorem transfer_forwardVec (ht : t.length = size sz)
    (hr : ∀ i < size sz, s.src.toNat + i * s.stride.toNat < s.nw ∧ s.dst.toNat + i < s.nw) (raw : Bool) :
    let x := (List.range (size sz)).map (fun i => s.readWord (s.src.toNat + i * s.stride.toNat))
    let y := if raw then (f x).vec else permFwd t (f x).vec
    (∀ i < size sz, (transfer .fwd sz (forwardVec f t raw) s).readWord (s.dst.toNat + i) = elt y i) ∧
      s.CompletedTo (transfer .fwd sz (forwardVec f t raw) s) (f x).ovf ∧
      s.AddressRegsKept (transfer .fwd sz (forwardVec f t raw) s) := by
  obtain ⟨hw, hc, hk⟩ :=
    transfer_transferredTo (m := .fwd) (f := forwardVec f t raw) hsz (length_forwardVec ht hf raw _) hr
  rw [State.gather_eq_map, forwardVec_eq] at hw hc
  exact ⟨fun i hi => hw i hi fun _ _ => State.scatterAddr_ne_of_lt (by decide) s, hc, hk⟩

/-- An inverse transform: a contiguous read, PermInv unless RAW, the composer, a strided write (R238, R240, R245). -/
theorem transfer_inverseVec
    (hr : ∀ i < size sz, s.src.toNat + i < s.nw ∧ s.dst.toNat + i * s.stride.toNat < s.nw) (raw : Bool) :
    let x := (List.range (size sz)).map (fun i => s.readWord (s.src.toNat + i))
    let y := f (if raw then x else permInv t x)
    (∀ i < size sz, (s.stride ≠ 0#16 ∨ i = size sz - 1) →
      (transfer .inv sz (inverseVec f t raw) s).readWord (s.dst.toNat + i * s.stride.toNat) = elt y.vec i) ∧
      s.CompletedTo (transfer .inv sz (inverseVec f t raw) s) y.ovf ∧
      s.AddressRegsKept (transfer .inv sz (inverseVec f t raw) s) := by
  obtain ⟨hw, hc, hk⟩ :=
    transfer_transferredTo (m := .inv) (f := inverseVec f t raw) hsz (length_inverseVec hf t raw _) hr
  rw [State.gather_eq_map] at hw hc
  exact ⟨fun i hi hlast => hw i hi fun _ => State.scatterAddr_inv_ne_of_lt hlast, hc, hk⟩

end Transforms

/-! ## The obligations -/

/-- Settles O20: the forward transform of C2_N. -/
theorem fdctWritesTheForwardDct : Obligations.FdctWritesTheForwardDct := fun _ _ fam raw hsz hr =>
  ⟨_, rfl, transfer_forwardVec hsz (length_c2 fam _) (length_permC2 _) hr raw⟩

/-- Settles O21: the inverse transform of iC2_N. -/
theorem idctWritesTheInverseDct : Obligations.IdctWritesTheInverseDct := fun _ _ fam raw hsz hr =>
  ⟨_, rfl, transfer_inverseVec hsz (length_ic2 fam _) hr raw⟩

/-- Settles O22: the forward transform of S4_N. -/
theorem fdstWritesTheForwardDst : Obligations.FdstWritesTheForwardDst := fun _ _ fam raw hsz hr =>
  ⟨_, rfl, transfer_forwardVec hsz (length_s4 fam _) (length_permS4 _) hr raw⟩

/-- Settles O23: the inverse transform of iS4_N. -/
theorem idstWritesTheInverseDst : Obligations.IdstWritesTheInverseDst := fun _ _ fam raw hsz hr =>
  ⟨_, rfl, transfer_inverseVec hsz (length_is4 fam _) hr raw⟩

/-- Settles O24: the copy's output is its gathered vector. -/
theorem identityCommandsCopy : Obligations.IdentityCommandsCopy := by
  intro s sz hsz
  refine ⟨fun hr => ⟨_, rfl, ?_⟩, fun hr => ⟨_, rfl, ?_⟩⟩
  · obtain ⟨hw, hc, hk⟩ := transfer_transferredTo (m := .fwd) (f := copyVec) hsz (s.length_gather .fwd _) hr
    refine ⟨fun i hi => ?_, hc, hk⟩
    exact (hw i hi fun _ _ => State.scatterAddr_ne_of_lt (by decide) s).trans (s.elt_gather .fwd _ hi)
  · obtain ⟨hw, hc, hk⟩ := transfer_transferredTo (m := .inv) (f := copyVec) hsz (s.length_gather .inv _) hr
    refine ⟨fun i hi hlast => ?_, hc, hk⟩
    exact (hw i hi fun _ => State.scatterAddr_inv_ne_of_lt hlast).trans (s.elt_gather .inv _ hi)

/-- Settles O25: PERMF's output holds the word of slot k at P[k], PERMI's the word of P[k] at k. -/
theorem permutationCommandsReorder : Obligations.PermutationCommandsReorder := by
  intro s sz tbl hsz hr
  have ht := permTable_perm_range tbl (level sz)
  have hlt {k : Nat} (hk : k < size sz) : nth (permTable tbl (level sz)) k < size sz := nth_lt_of_perm_range ht hk
  have hlast (i : Nat) : ∀ j < size sz, i < j → s.scatterAddr .perm j ≠ s.scatterAddr .perm i := fun _ _ =>
    State.scatterAddr_ne_of_lt (by decide) s
  refine ⟨⟨_, rfl, ?_⟩, ⟨_, rfl, ?_⟩⟩
  · obtain ⟨hw, hc, hk⟩ := transfer_transferredTo (m := .perm) (f := permfVec sz tbl) hsz (length_permfVec sz tbl _) hr
    refine ⟨fun k hlk => (hw _ (hlt hlk) (hlast _)).trans ?_, hc, hk⟩
    exact (elt_permFwd_nth ht _ hlk).trans (s.elt_gather .perm _ hlk)
  · obtain ⟨hw, hc, hk⟩ := transfer_transferredTo (m := .perm) (f := permiVec sz tbl) hsz (length_permiVec sz tbl _) hr
    refine ⟨fun k hlk => (hw k hlk (hlast k)).trans ?_, hc, hk⟩
    exact (elt_permInv ht _ hlk).trans (s.elt_gather .perm _ (hlt hlk))

/-- Settles O27: the second element's address is NW. -/
theorem lastWordSourceRaisesRange : Obligations.LastWordSourceRaisesRange := by
  intro s i m sz hshape hm hwf hsrc
  obtain ⟨f, -, hcheck, hexec⟩ := exec_eq_transfer hshape
  refine ⟨s.completeErr .range, ?_, rfl, fun he => ?_, fun he => ?_, rfl⟩
  · rw [hexec, transfer_range f (hcheck ▸ hwf) (State.inRange_last_word hm hsrc sz)]
  · rw [State.completeErr_ecode, he]; rfl
  · rw [State.completeErr_ecode, he]; rfl

/-- Settles O28: an error leaves DMEM and V alone, and a scatter stays within its list and the first N elements. -/
theorem transferFrame : Obligations.TransferFrame := by
  intro s t i m sz hshape h
  obtain ⟨f, hf, hcheck, hexec⟩ := exec_eq_transfer hshape
  cases (hexec s).symm.trans h
  rcases transfer_cases m sz f s with ⟨code, hres, hbad⟩ | ⟨hr, hres⟩ <;> rw [hres]
  · refine ⟨fun a _ => State.readByte_congr rfl rfl a, fun _ a => State.readByte_congr rfl rfl a, fun _ _ _ => rfl,
      ⟨rfl, rfl, rfl⟩, ⟨rfl, rfl, rfl, rfl, rfl⟩, rfl, rfl, fun hwf hr => ?_⟩
    rw [(s.inRange_iff m _).2 hr] at hbad
    cases hbad (hcheck ▸ hwf)
  · refine ⟨fun a ha => ?_, fun hout => ?_, fun k h hk => ?_, ⟨rfl, rfl, rfl⟩, ⟨rfl, rfl, rfl, rfl, rfl⟩, rfl, rfl,
      fun _ _ => ⟨rfl, rfl⟩⟩
    · have hnotMem : a / 4 ∉ s.scatterList m (size sz) := fun hmem =>
        let ⟨k, hk, hak⟩ := (s.mem_scatterList m _ _).1 hmem
        ha k hk hak.symm
      exact (State.readByte_congr rfl rfl a).trans (s.readByte_scatter_of_notMem m _ _ hnotMem)
    · rw [(s.inRange_eq_false_iff m _).2 hout] at hr
      cases hr
    · exact getElem_setVector_of_length_le s.vbuf h ((hf _ (s.length_gather m _)).trans_le hk)

/-- Settles O29: such a command is its register's write and the normal completion. -/
theorem setterFrame : Obligations.SetterFrame := by
  intro s t i hi h
  obtain ⟨src, dst, stride, rfl, hsrc, hdst, hstride⟩ := exec_of_transferShape_none hi h
  exact ⟨State.readByte_congr rfl rfl, rfl, rfl, rfl, Bool.or_false _, rfl, rfl, ⟨rfl, rfl, rfl, rfl, rfl⟩, hsrc, hdst,
    hstride⟩

/-- Settles O10: the acceptance leaves the command's word pending with no delay, and the next step decodes it. -/
theorem writtenCommandRuns : Obligations.WrittenCommandRuns := by
  intro s i rest hwf hi hp hlat
  have hstep := step_writeCmd_of_idle hi hp
  refine ⟨_, hstep, rfl, rfl, ⟨rfl, rfl, rfl⟩, ?_⟩
  rw [core_run_succ hstep, core_run_one]
  exact step_of_decode rfl (.inl hlat) (decode_encode hwf)

/-- Settles O6: the engine's step is the decoded command's. -/
theorem stepRunsTheDecodedCommand : Obligations.StepRunsTheDecodedCommand := fun _ _ _ hp ht h => step_of_decode hp ht h

/-- Settles O19: the normal completion with the indicator clear, after the register's write. -/
theorem nopAndSettersComplete : Obligations.NopAndSettersComplete := fun s imm =>
  ⟨congrArg _ s.completeOk_false, congrArg _ (State.completeOk_false { s with src := imm }),
    congrArg _ (State.completeOk_false { s with dst := imm }), congrArg _ (State.completeOk_false { s with stride := imm })⟩

end Sys2Proof.Machine
end

section
/-! PROOFS. Errors and exceptions (60_exceptions.md): the refusals of a busy block, the completions that raise an error, the
overflow flag, the first error, and the progress of a pending command; the nine statements settled here (O7, O9, O11, O14, O26,
O30 to O32, O58). -/

namespace Sys2Proof.Machine

/-! ## What a busy block refuses (R284, R287) -/

theorem State.busy_of_pending {s : State} {c : Word} (h : s.pending = some c) : s.busy = true := by
  rw [State.busy, h]; rfl

theorem State.whenIdle_of_busy {s : State} (h : s.busy = true) (t : State) : s.whenIdle t = s.signalError .hostbusy :=
  if_pos h

theorem State.writeRegister_cmd_of_busy {s : State} (h : s.busy = true) (v : Word) :
    s.writeRegister 0x10 v = s.signalError .overrun := if_pos h

theorem State.writeRegister_address_of_busy {s : State} (h : s.busy = true) {off : Nat}
    (ho : off = 0x14 ∨ off = 0x18 ∨ off = 0x1C) (v : Word) : s.writeRegister off v = s.signalError .hostbusy := by
  rcases ho with rfl | rfl | rfl
  · rw [State.writeRegister_src, State.whenIdle_of_busy h]
  · rw [State.writeRegister_dst, State.whenIdle_of_busy h]
  · rw [State.writeRegister_stride, State.whenIdle_of_busy h]

/-- An aligned offset of the DMEM window is that of a DMEM word (R61). -/
theorem eq_windowBase_add_of_aligned {off nw : Nat} (h4 : off % 4 = 0) (hlo : windowBase ≤ off)
    (hhi : off < windowBase + 4 * nw) : ∃ i < nw, off = windowBase + 4 * i := by
  simp only [windowBase] at hlo hhi ⊢
  exact ⟨(off - 0x10000) / 4, by omega, by omega⟩

/-! ## The outcome of each error and the progress of the block (R280, R292) -/

theorem engineStep_of_illegal {c : Word} {why : IllegalReason} (h : decode c = .illegal why) (s : State) :
    engineStep c s = .next (s.completeErr .illegal) := by
  rw [engineStep, h]

/-- A completion leaves the block idle with DONE set, and LASTCMD and the inputs to come as they were (R230). -/
theorem Effect.completed {s t : State} (h : Effect s t) :
    t.pending = none ∧ t.done = true ∧ t.lastCmd = s.lastCmd ∧ t.inputs = s.inputs := by
  cases h <;> exact ⟨rfl, rfl, rfl, rfl⟩

theorem Written.inputs {s t : State} (h : Written s t) : t.inputs = s.inputs := by
  cases h <;> rfl

theorem HostMove.inputs {s t : State} {x : Input} (h : HostMove s x t) : t.inputs = s.inputs := by
  cases h with
  | read | refusedRead | reset => rfl
  | write w off v hw => exact hw.inputs

/-- Only an acceptance sets the delay, and a busy block accepts nothing (R284, R326). -/
theorem Written.delay_of_busy {s t : State} (h : Written s t) (hb : s.busy = true) : t.delay = s.delay := by
  cases h with
  | accepted c hidle => rw [hb] at hidle; cases hidle
  | ignored | error | ctrl | status | src | dst | stride | word => rfl

theorem HostMove.delay_of_busy {s t : State} {x : Input} (h : HostMove s x t) (hb : s.busy = true) (hx : x ≠ .reset) :
    t.delay = s.delay := by
  cases h with
  | read | refusedRead => rfl
  | write w off v hw => exact hw.delay_of_busy hb
  | reset => exact absurd rfl hx

/-- Inside the aperture the port answers every access, and a reset (R60, R329). -/
theorem hostStep_next_of_inAperture {x : Input} (hx : x.inAperture = true) (s : State) (rest : List Input) :
    ∃ t, hostStep s x rest = .next t := by
  cases x with
  | read w off => exact ⟨_, if_pos (of_decide_eq_true hx)⟩
  | write w off v => exact ⟨_, if_pos (of_decide_eq_true hx)⟩
  | reset => exact ⟨_, rfl⟩

/-- On the outside world's turn an input inside the aperture is taken (R330). -/
theorem step_host_next {s : State} {x : Input} {rest : List Input} (hi : s.inputs = x :: rest) (ht : s.hostTurn)
    (hok : s.inputsOk) : ∃ t, step s = .next t ∧ HostMove (s.takeInput rest) x t ∧ t.inputs = rest ∧ t.inputsOk := by
  rw [State.inputsOk, hi] at hok
  obtain ⟨hx, hrest⟩ := List.forall_mem_cons.1 hok
  obtain ⟨t, hs⟩ := hostStep_next_of_inAperture hx s rest
  have hmove := hostStep_move hs
  have hinputs : t.inputs = rest := hmove.inputs
  exact ⟨t, (step_host hi ht).trans hs, hmove, hinputs, by rwa [State.inputsOk, hinputs]⟩

/-- On the engine's turn a pending command completes (R230, R292). -/
theorem step_engine_next {s : State} {c : Word} (hp : s.pending = some c) (ht : s.engineTurn) :
    ∃ t, step s = .next t ∧ Effect s t := by
  rw [step_engine hp ht]
  exact engineStep_effect c s

/-- `t` is `s` with its command completed and counted once (R45, R230, R292). -/
def State.CountedOnce (s t : State) : Prop :=
  t.pending = none ∧ t.done = true ∧ t.cmdcnt = s.cmdcnt + 1#32 ∧ t.lastCmd = s.lastCmd

theorem run_one_completes {s : State} {c : Word} (hp : s.pending = some c) (ht : s.engineTurn) :
    ∃ t, Sys2Proof.core.run 1 s = .next t ∧ s.CountedOnce t := by
  obtain ⟨t, hs, he⟩ := step_engine_next hp ht
  obtain ⟨hpend, hdone, hlast, -⟩ := he.completed
  exact ⟨t, (core_run_one s).trans hs, hpend, hdone, he.cmdcnt, hlast⟩

/-- A pending command completes in the step after the inputs its delay lets in, each of which takes the delay one lower and
leaves the command pending (R292, R326). -/
theorem run_completes {s : State} {c : Word} (hp : s.pending = some c) (hok : s.inputsOk) (hreset : Input.reset ∉ s.inputs) :
    ∃ t, Sys2Proof.core.run (min s.delay s.inputs.length + 1) s = .next t ∧ s.CountedOnce t := by
  induction hi : s.inputs generalizing s with
  | nil =>
    rw [List.length_nil, Nat.min_zero]
    exact run_one_completes hp (.inr hi)
  | cons x rest ih =>
    cases hd : s.delay with
    | zero =>
      rw [Nat.zero_min]
      exact run_one_completes hp (.inl hd)
    | succ d =>
      obtain ⟨hx, hrest⟩ := not_or.1 (List.mem_cons.not.1 (hi ▸ hreset))
      have hne : x ≠ .reset := Ne.symm hx
      have hb : (s.takeInput rest).busy = true := State.busy_of_pending (s := s.takeInput rest) hp
      obtain ⟨u, hs, hmove, hinputs, hok'⟩ := step_host_next hi (.inr (by omega)) hok
      have hkept := hmove.commandKept hb hne
      have hdelay : u.delay = d := by rw [hmove.delay_of_busy hb hne, State.takeInput_delay, hd, Nat.add_sub_cancel]
      have hcount : u.cmdcnt = s.cmdcnt := hmove.cmdcnt.trans (if_neg hne)
      have hlast : u.lastCmd = s.lastCmd := hkept.lastCmd
      obtain ⟨t, hrun, hpend, hdone, hcnt, hl⟩ := ih (hkept.pending.trans hp) hok' (hinputs ▸ hrest) hinputs
      rw [hdelay] at hrun
      refine ⟨t, ?_, hpend, hdone, hcount ▸ hcnt, hl.trans hlast⟩
      rw [List.length_cons, Nat.succ_min_succ, core_run_succ hs, hrun]

/-! ## The overflow flag (R286) -/

theorem Effect.ovfFlag_kept {s t : State} (h : Effect s t) (ho : s.ovfFlag = true) : t.ovfFlag = true := by
  cases h with
  | error => exact ho
  | quiet | src | dst | stride | scattered => exact Bool.or_eq_true_iff.2 (.inl ho)

/-- A transfer whose function never overflows leaves the OVF flag, whether it completes or raises an error. -/
theorem transfer_ovfFlag_of_no_ovf (m : Mode) (sz : BitVec 3) {f : List Word → Composed} (hf : ∀ x, (f x).ovf = false)
    (s : State) : (transfer m sz f s).ovfFlag = s.ovfFlag := by
  rcases transfer_cases m sz f s with ⟨code, hres, -⟩ | ⟨-, hres⟩ <;> rw [hres]
  · rfl
  · rw [hf]; exact Bool.or_false _

theorem ovfFlag_of_not_computes {s t : State} {i : Instr} (hi : i.computes = false) (h : exec i s = .next t) :
    t.ovfFlag = s.ovfFlag := by
  cases i with
  | nop | setsrc | setdst | setstr => cases h; exact Bool.or_false _
  | fdct | idct | fdst | idst => cases hi
  | fidt | iidt | permf | permi => cases h; exact transfer_ovfFlag_of_no_ovf _ _ (fun _ => rfl) s

/-! ## The first error (R288) -/

/-- ERR and ECODE of `t` are those of `s`, whose ERR is 1, or both are cleared. -/
def State.FirstErrorKept (s t : State) : Prop :=
  (t.err = true ∧ t.ecode = s.ecode) ∨ (t.err = false ∧ t.ecode = ErrCode.none)

section FirstError
variable {s t : State} (he : s.err = true)
include he

/-- A further error leaves the code of the first (R288). -/
theorem State.firstErrorKept_signalError (code : ErrCode) : s.FirstErrorKept (s.signalError code) :=
  .inl ⟨rfl, if_pos he⟩

theorem State.firstErrorKept_writeStatus (v : Word) : s.FirstErrorKept (s.writeStatus v) := by
  rw [State.FirstErrorKept, State.writeStatus_err, State.writeStatus_ecode, he]
  cases v.getLsbD 2 with
  | false => exact .inl ⟨rfl, rfl⟩
  | true => exact .inr ⟨rfl, rfl⟩

theorem Effect.firstErrorKept (h : Effect s t) : s.FirstErrorKept t := by
  cases h with
  | error code hc => exact .inl ⟨rfl, if_pos he⟩
  | quiet | src | dst | stride | scattered => exact .inl ⟨he, rfl⟩

theorem Written.firstErrorKept (h : Written s t) : s.FirstErrorKept t := by
  cases h with
  | error code hc => exact State.firstErrorKept_signalError he code
  | status v => exact State.firstErrorKept_writeStatus he v
  | ignored | ctrl | accepted | src | dst | stride | word => exact .inl ⟨he, rfl⟩

theorem HostMove.firstErrorKept {x : Input} (h : HostMove s x t) : s.FirstErrorKept t := by
  cases h with
  | read => exact .inl ⟨he, rfl⟩
  | refusedRead w off v code hc => exact State.firstErrorKept_signalError he code
  | write w off v hw => exact hw.firstErrorKept he
  | reset => exact .inr ⟨rfl, rfl⟩

end FirstError

/-! ## Precision (R291) -/

/-- Only an error raises ERR, so a completion that does is one (R290). -/
theorem Effect.eq_completeErr {s t : State} (h : Effect s t) (he : s.err = false) (ht : t.err = true) :
    ∃ code, (code = .illegal ∨ code = .range) ∧ t = s.completeErr code := by
  cases h with
  | error code hc => exact ⟨code, hc, rfl⟩
  | quiet | src | dst | stride | scattered => cases he.symm.trans ht

/-! ## The obligations -/

/-- Settles O11: by induction on the inputs to come. -/
theorem pendingCommandCompletes : Obligations.PendingCommandCompletes := fun _ _ => run_completes

/-- Settles O14: a completion and idling keep the inputs to come, and a host move takes the first. -/
theorem stepNeverStopsInTheAperture : Obligations.StepNeverStopsInTheAperture := by
  intro s hok
  rcases step_cases s with ⟨c, hp, ht, -⟩ | ⟨x, rest, hi, ht, -⟩ | ⟨-, -, hs⟩
  · obtain ⟨t, hs, he⟩ := step_engine_next hp ht
    obtain ⟨-, -, -, hinputs⟩ := he.completed
    exact ⟨t, hs, by rwa [State.inputsOk, hinputs]⟩
  · obtain ⟨t, hs, -, -, hok'⟩ := step_host_next hi ht hok
    exact ⟨t, hs, hok'⟩
  · exact ⟨s, hs, hok⟩

/-- Settles O26: the RANGE check fails before any access. -/
theorem rangeErrorChangesNothingElse : Obligations.RangeErrorChangesNothingElse := by
  intro s i m sz hshape hwf hout
  obtain ⟨f, -, hcheck, hexec⟩ := exec_eq_transfer hshape
  rw [hexec, transfer_range f (hcheck ▸ hwf) ((s.inRange_eq_false_iff m _).2 hout)]
  rfl

/-- Settles O30: a completion only adds to OVF, and a command that does not compute has no overflow to add. -/
theorem onlyComputingCommandsSetOverflow : Obligations.OnlyComputingCommandsSetOverflow := by
  intro s i
  obtain ⟨t, h, he⟩ := exec_effect i s
  exact ⟨t, h, fun hi => ovfFlag_of_not_computes hi h, he.ovfFlag_kept⟩

/-- Settles O31: the completion with an error changes ERR, ECODE, DONE, BUSY, CMDCNT and the indicator only. -/
theorem commandErrorsArePrecise : Obligations.CommandErrorsArePrecise := by
  intro s t c hp hturn he h ht
  obtain ⟨code, hcode, rfl⟩ := (step_engine_effect hp hturn h).eq_completeErr he ht
  have hecode : (s.completeErr code).ecode = code := by rw [State.completeErr_ecode, he]; rfl
  exact ⟨rfl, State.readByte_congr rfl rfl, ⟨rfl, rfl, rfl⟩, rfl, rfl, rfl, rfl, rfl, hecode.symm ▸ hcode⟩

/-- Settles O32: a completion or a host move signals on top of the first error, or a STATUS write or a reset clears it. -/
theorem firstErrorIsKept : Obligations.FirstErrorIsKept := by
  intro s t he h
  rcases step_next_cases h with ⟨c, -, -, heff⟩ | ⟨x, rest, -, -, hm⟩ | ⟨-, -, rfl⟩
  · exact heff.firstErrorKept he
  · exact hm.firstErrorKept (s := s.takeInput rest) he
  · exact .inl ⟨he, rfl⟩

/-- Settles O58: the port refuses what needs an idle block. -/
theorem hostIsRefusedWhileBusy : Obligations.HostIsRefusedWhileBusy := by
  intro s c v off rest hp hd h4
  have hb : (s.takeInput rest).busy = true := State.busy_of_pending (s := s.takeInput rest) hp
  refine ⟨fun hi ho => ?_, fun hi hlo hhi => ?_⟩
  · have hsplit : (off = 0x14 ∨ off = 0x18 ∨ off = 0x1C) ∨ 0x10000 ≤ off ∧ off < 0x10000 + 4 * s.nw := by omega
    rcases hsplit with hreg | ⟨hlo, hhi⟩
    · have hbelow : off < windowBase := by simp only [windowBase]; omega
      rw [step_writeRegister hi (.inr hd) h4 (.inl hbelow), State.writeRegister_address_of_busy hb hreg]
      rfl
    · obtain ⟨i, hlt, rfl⟩ := eq_windowBase_add_of_aligned h4 hlo hhi
      rw [step_host hi (.inr hd), hostStep_writeDmem s v rest hlt, State.whenIdle_of_busy hb]
      rfl
  · obtain ⟨i, hlt, rfl⟩ := eq_windowBase_add_of_aligned h4 hlo hhi
    rw [step_host hi (.inr hd), hostStep_readDmem s rest hlt, State.busy_of_pending hp]
    rfl

/-- Settles O7: the word completes with the error ILLEGAL. -/
theorem illegalWordCompletesWithError : Obligations.IllegalWordCompletesWithError := fun s _ _ hp ht h =>
  (step_engine hp ht).trans (engineStep_of_illegal h s)

/-- Settles O9: the write of CMD by a busy block only signals. -/
theorem commandWriteWhileBusyIsDropped : Obligations.CommandWriteWhileBusyIsDropped := by
  intro s c v rest hi hp hd
  have hb : (s.takeInput rest).busy = true := State.busy_of_pending (s := s.takeInput rest) hp
  rw [step_writeRegister hi (.inr hd) rfl (.inl (by decide)), State.writeRegister_cmd_of_busy hb]
  rfl

end Sys2Proof.Machine
end

section
/-! PROOFS. The platform's reset as a step of the machine (70_reset_and_hazards.md R320, R321): the outside world may take
it at any input, whatever is pending, and it leaves the reset value everywhere. -/

namespace Sys2Proof.Machine

/-- On the outside world's turn the reset input is the platform's reset, whether a command is pending or not (R320). -/
theorem step_reset {s : State} {rest : List Input} (hi : s.inputs = .reset :: rest) (ht : s.hostTurn) :
    step s = .next (s.takeInput rest).platformReset :=
  step_host hi ht

/-- After a reset no interrupt is raised (R293, R321). -/
@[simp] theorem State.platformReset_irq (s : State) : s.platformReset.irq = false := rfl

/-- STATUS holds no parameter, so after a reset it is that of the reference reset state: every field is 0 (R39, R321). -/
@[simp] theorem State.platformReset_status (s : State) : s.platformReset.status = 0#32 := by
  have href : s.platformReset.status = State.reset.status := rfl
  have hzero : State.reset.status = 0#32 := by decide
  exact href.trans hzero

/-- After a reset every DMEM byte is unwritten (R321). -/
theorem State.platformReset_find (s : State) (a : Nat) : s.platformReset.dmem.find a = none := Memory.find_nil a

/-- Settles O18: the step is the platform's reset of the state with the input taken, and CFG is LOG2NW's for every NW. -/
theorem resetAbandonsThePendingCommand : Obligations.ResetAbandonsThePendingCommand := by
  intro s rest hi ht
  have hcfg : (s.takeInput rest).platformReset.readRegister 0x04 = BitVec.ofNat 32 (0x01201800 + s.params.log2nw) :=
    State.cfgWord_eq (s.takeInput rest).platformReset
  exact ⟨(s.takeInput rest).platformReset, step_reset hi ht, rfl, State.platformReset_status _, rfl, rfl, rfl, rfl, rfl, rfl,
    rfl, State.platformReset_irq _, State.platformReset_find _, rfl, hcfg, rfl, rfl⟩

end Sys2Proof.Machine
end
